-- ==== Sys2Proof/Word.lean ====
section
/-! DEFINITION. The word types of CNCORE. -/

namespace Sys2Proof

/-- One byte. -/
abbrev Byte := BitVec 8

/-- A 32-bit word: a command word, a control register, the bus data (spec/20 R50). -/
abbrev Word := BitVec 32

/-- A 64-bit lane of a 16-byte value (spec/00 R8). -/
abbrev Lane := BitVec 64

/-- A 16-byte value: byte i is bits [8i+7:8i], so lane 0 is the low half (spec/00 R8, spec/20 R51). -/
abbrev Block := BitVec 128

/-- A byte address of the 22-bit host window (spec/20 R50). -/
abbrev WinAddr := BitVec 22

end Sys2Proof
end

