-- ==== Sys2Proof/Machine/Bytes.lean ====
section
/-! DEFINITION. Byte arrays as little-endian bit vectors (spec/00 R7, R8; spec/20 R51, R52): byte i of an array is bits
[8i+7:8i]. Every wider view (32-bit words, 64-bit lanes, 16-byte blocks) is a slice of the same bits, so the views
cannot come apart. -/

namespace Sys2Proof

variable {w : Nat}

/-- `X[i]` of spec/00 R7: byte i of a byte array. -/
def byteAt (x : BitVec w) (i : Nat) : Byte := x.extractLsb' (8 * i) 8

/-- The 4-byte word k of a byte array (spec/20 R52). -/
def wordAt (x : BitVec w) (k : Nat) : Word := x.extractLsb' (32 * k) 32

/-- `X[off : off+16)` of spec/00 R7: the 16 bytes from byte `off` on. -/
def blockFrom (x : BitVec w) (off : Nat) : Block := x.extractLsb' (8 * off) 128

/-- `X[off : off+8)` of spec/00 R7: the 8 bytes from byte `off` on. -/
def laneFrom (x : BitVec w) (off : Nat) : Lane := x.extractLsb' (8 * off) 64

/-- `lane0(X)` of spec/00 R8. -/
def lane0 (x : Block) : Lane := x.extractLsb' 0 64

/-- `lane1(X)` of spec/00 R8. -/
def lane1 (x : Block) : Lane := x.extractLsb' 64 64

/-- `cell(l0, l1)` of spec/00 R8: lane 0 in the low half. -/
def cell (l0 l1 : Lane) : Block := l1 ++ l0

/-- The w-bit array whose first n chunks of c bits are `f 0`, `f 1`, …, and whose other bits are 0. -/
def pack {c : Nat} (w : Nat) (f : Nat → BitVec c) : Nat → BitVec w
  | 0 => 0
  | n + 1 => pack w f n ||| ((f n).setWidth w <<< (c * n))

/-- The array x with the c bits from bit `off` on replaced by v. -/
def setBits {c : Nat} (x : BitVec w) (off : Nat) (v : BitVec c) : BitVec w :=
  (x &&& ~~~((BitVec.allOnes c).setWidth w <<< off)) ||| (v.setWidth w <<< off)

/-- The array x with byte i replaced by v. -/
def setByte (x : BitVec w) (i : Nat) (v : Byte) : BitVec w := setBits x (8 * i) v

/-- The four bytes b0 (lowest) to b3 as a word (`le32` of spec/00 R8). -/
def le32 (b0 b1 b2 b3 : Byte) : Word := b3 ++ b2 ++ b1 ++ b0

/-- The bytes of a word, lowest first (`bytes_4` of spec/00 R8). -/
def bytes4 (v : Word) : List Byte := [byteAt v 0, byteAt v 1, byteAt v 2, byteAt v 3]

end Sys2Proof
end

