-- ==== Sys2Proof/Syntax.lean ====
section
/-! DEFINITION. The instructions of CNCORE: the 11 commands and the 6 host bus transactions of
spec/opcode_table.json, and the two kinds of input they are decoded from (spec/30 R80). -/

namespace Sys2Proof

/-- One constructor per row of the opcode table (spec/30 R83, R86). -/
inductive Instr where
  /-- NOP, spec/43 R185. -/
  | nop
  /-- KEYEXP, spec/40 R121. -/
  | keyexp
  /-- ENC10, spec/40 R122. -/
  | enc10
  /-- ENC1, spec/40 R123. -/
  | enc1
  /-- SP_INIT, spec/41 R140. -/
  | spInit
  /-- MIX_INIT v, spec/42 R150; v is the VAR field. -/
  | mixInit (v : BitVec 8)
  /-- MIX_STEP, spec/42 R156. -/
  | mixStep
  /-- MIX_RUN, spec/42 R157. -/
  | mixRun
  /-- COMPRESS, spec/43 R180. -/
  | compress
  /-- KPERM, spec/43 R182. -/
  | kperm
  /-- HASH v, spec/43 R184; v is the VAR field. -/
  | hash (v : BitVec 8)
  /-- RD8 addr, spec/44 R200. -/
  | rd8 (addr : WinAddr)
  /-- RD16 addr, spec/44 R200. -/
  | rd16 (addr : WinAddr)
  /-- RD32 addr, spec/44 R200. -/
  | rd32 (addr : WinAddr)
  /-- WR8 addr, data, spec/44 R201; the bus carries 32 bits, bits [7:0] are used. -/
  | wr8 (addr : WinAddr) (data : Word)
  /-- WR16 addr, data, spec/44 R201; bits [15:0] are used. -/
  | wr16 (addr : WinAddr) (data : Word)
  /-- WR32 addr, data, spec/44 R201. -/
  | wr32 (addr : WinAddr) (data : Word)
  deriving DecidableEq, Repr

/-- A host bus transaction as it stands on the bus: the transaction code TC = W ‖ SZ, the address and the write
data (spec/30 R86, R89). -/
structure Txn where
  tc    : BitVec 3
  addr  : WinAddr
  wdata : Word
  deriving DecidableEq, Repr

/-- The two kinds of input CNCORE decodes (spec/30 R80). -/
inductive Code where
  /-- A command word, as written to CMD. -/
  | command (w : Word)
  /-- A host bus transaction. -/
  | bus (t : Txn)
  deriving DecidableEq, Repr

/-- The instruction is a command, one the core sequencer executes (spec/00 R2). -/
def Instr.isCommand : Instr → Bool
  | .nop | .keyexp | .enc10 | .enc1 | .spInit | .mixInit _ | .mixStep | .mixRun | .compress | .kperm | .hash _ => true
  | .rd8 _ | .rd16 _ | .rd32 _ | .wr8 _ _ | .wr16 _ _ | .wr32 _ _ => false

end Sys2Proof
end

