-- ==== Sys2Proof/WellFormed.lean ====
section
/-! DEFINITION. Which terms of `Instr` are instructions. The widths of VAR, ADDR and WDATA are in the types; what is
left to check is that a narrow write carries no data bits it does not use (spec/30 R86: only bits [8s-1:0] of WDATA are
used). -/

namespace Sys2Proof

/-- The instruction carries only bits that its encoding uses (spec/30 R86). -/
def Instr.wellFormed : Instr → Bool
  | .wr8 _ data => decide (data.toNat < 2 ^ 8)
  | .wr16 _ data => decide (data.toNat < 2 ^ 16)
  | .nop | .keyexp | .enc10 | .enc1 | .spInit | .mixInit _ | .mixStep | .mixRun | .compress | .kperm | .hash _ => true
  | .rd8 _ | .rd16 _ | .rd32 _ | .wr32 _ _ => true

end Sys2Proof
end

