-- ==== Sys2Proof/Decode.lean ====
section
/-! DEFINITION. The decoder of command words and host transactions (spec/30 R80 to R87), total on any bytes and
rejecting by name, and the encoder. -/

namespace Sys2Proof

/-- Why an input decodes to no instruction. -/
inductive DecodeError where
  /-- A command word that matches no row (spec/30 R84). -/
  | illegalCommand
  /-- A transaction code 011 or 111 (spec/30 R86). -/
  | reservedSize
  /-- A transaction record with a bit set that the tuple does not have (the model's own record layout, log 1). -/
  | badRecord
  /-- Neither the 4 bytes of a command word nor the 8 bytes of a transaction record (spec/30 R80, log 1). -/
  | wrongLength
  deriving DecidableEq, Repr

/-- `Decode(w)` of spec/30 R84. -/
def decodeCommand (w : Word) : Except DecodeError Instr :=
  let opc : BitVec 8 := w.extractLsb' 0 8
  let var : BitVec 8 := w.extractLsb' 8 8
  if opc = 0x20 ∨ opc = 0x80 then
    if w.extractLsb' 16 16 ≠ 0 then .error .illegalCommand
    else if opc = 0x20 then .ok (.mixInit var) else .ok (.hash var)
  else if w.extractLsb' 8 24 ≠ 0 then .error .illegalCommand
  else if opc = 0x00 then .ok .nop
  else if opc = 0x01 then .ok .keyexp
  else if opc = 0x02 then .ok .enc10
  else if opc = 0x03 then .ok .enc1
  else if opc = 0x10 then .ok .spInit
  else if opc = 0x21 then .ok .mixStep
  else if opc = 0x22 then .ok .mixRun
  else if opc = 0x30 then .ok .compress
  else if opc = 0x40 then .ok .kperm
  else .error .illegalCommand

/-- The transaction types of spec/30 R86. Only bits [8s-1:0] of the write data are kept. -/
def decodeTxn (t : Txn) : Except DecodeError Instr :=
  if t.tc = 0b000 then .ok (.rd8 t.addr)
  else if t.tc = 0b001 then .ok (.rd16 t.addr)
  else if t.tc = 0b010 then .ok (.rd32 t.addr)
  else if t.tc = 0b100 then .ok (.wr8 t.addr (t.wdata &&& 0xFF))
  else if t.tc = 0b101 then .ok (.wr16 t.addr (t.wdata &&& 0xFFFF))
  else if t.tc = 0b110 then .ok (.wr32 t.addr t.wdata)
  else .error .reservedSize

/-- The decoder of the two kinds of input (spec/30 R80). -/
def decode : Code → Except DecodeError Instr
  | .command w => decodeCommand w
  | .bus t => decodeTxn t

/-- A transaction laid out in 8 bytes: TC in byte 0, ADDR in bytes 1 to 3, WDATA in bytes 4 to 7, unused bits 0. The
spec gives the tuple only; the layout is the model's (DESIGN CHOICE, log 1). -/
def Txn.bytes (t : Txn) : List Byte :=
  t.tc.setWidth 8 :: (bytes4 (t.addr.setWidth 32)).take 3 ++ bytes4 t.wdata

/-- The transaction of an 8-byte record, or none where an unused bit is set (log 1). -/
def Txn.ofRecord (tcByte : Byte) (addr wdata : Word) : Option Txn :=
  if tcByte.extractLsb' 3 5 ≠ 0 ∨ addr.extractLsb' 22 10 ≠ 0 then none
  else some { tc := tcByte.extractLsb' 0 3, addr := addr.extractLsb' 0 22, wdata := wdata }

/-- The decoder on bytes, lowest address first: 4 bytes are a command word, 8 bytes a transaction record
(spec/30 R80, log 1). -/
def decodeBytes : List Byte → Except DecodeError Instr
  | [b0, b1, b2, b3] => decodeCommand (le32 b0 b1 b2 b3)
  | [t, a0, a1, a2, d0, d1, d2, d3] =>
    match Txn.ofRecord t (le32 a0 a1 a2 0) (le32 d0 d1 d2 d3) with
    | some x => decodeTxn x
    | none => .error .badRecord
  | _ => .error .wrongLength

/-- The encoder (spec/30 R81, R83, R86). A read's tuple carries a WDATA too (spec/30 R86, R89), to which the spec gives
no value and which no read uses: the encoder puts 0 there (DESIGN CHOICE, log 1). -/
def encode : Instr → Code
  | .nop => .command 0x00
  | .keyexp => .command 0x01
  | .enc10 => .command 0x02
  | .enc1 => .command 0x03
  | .spInit => .command 0x10
  | .mixInit v => .command (0x20 ||| (v.setWidth 32 <<< 8))
  | .mixStep => .command 0x21
  | .mixRun => .command 0x22
  | .compress => .command 0x30
  | .kperm => .command 0x40
  | .hash v => .command (0x80 ||| (v.setWidth 32 <<< 8))
  | .rd8 addr => .bus { tc := 0b000, addr := addr, wdata := 0 }
  | .rd16 addr => .bus { tc := 0b001, addr := addr, wdata := 0 }
  | .rd32 addr => .bus { tc := 0b010, addr := addr, wdata := 0 }
  | .wr8 addr data => .bus { tc := 0b100, addr := addr, wdata := data }
  | .wr16 addr data => .bus { tc := 0b101, addr := addr, wdata := data }
  | .wr32 addr data => .bus { tc := 0b110, addr := addr, wdata := data }

/-- The bytes of an input, lowest address first (spec/20 R51, log 1). -/
def Code.bytes : Code → List Byte
  | .command w => bytes4 w
  | .bus t => t.bytes

/-- One row of the opcode table: the word w selects it where w AND mask = value (spec/30 R83). -/
structure OpcodeRow where
  mnemonic : String
  value : Nat
  mask : Nat
  deriving DecidableEq, Repr

/-- The rows of spec/30 R83, in the table's order. -/
def commandRows : List OpcodeRow :=
  [⟨"NOP", 0x00000000, 0xFFFFFFFF⟩, ⟨"KEYEXP", 0x00000001, 0xFFFFFFFF⟩, ⟨"ENC10", 0x00000002, 0xFFFFFFFF⟩,
   ⟨"ENC1", 0x00000003, 0xFFFFFFFF⟩, ⟨"SP_INIT", 0x00000010, 0xFFFFFFFF⟩, ⟨"MIX_INIT", 0x00000020, 0xFFFF00FF⟩,
   ⟨"MIX_STEP", 0x00000021, 0xFFFFFFFF⟩, ⟨"MIX_RUN", 0x00000022, 0xFFFFFFFF⟩, ⟨"COMPRESS", 0x00000030, 0xFFFFFFFF⟩,
   ⟨"KPERM", 0x00000040, 0xFFFFFFFF⟩, ⟨"HASH", 0x00000080, 0xFFFF00FF⟩]

/-- The word selects the row (spec/30 R83). -/
def OpcodeRow.selects (r : OpcodeRow) (w : Word) : Bool := w &&& BitVec.ofNat 32 r.mask == BitVec.ofNat 32 r.value

/-- The row of the opcode table an instruction stands for, by its mnemonic. -/
def Instr.mnemonic : Instr → String
  | .nop => "NOP" | .keyexp => "KEYEXP" | .enc10 => "ENC10" | .enc1 => "ENC1" | .spInit => "SP_INIT"
  | .mixInit _ => "MIX_INIT" | .mixStep => "MIX_STEP" | .mixRun => "MIX_RUN" | .compress => "COMPRESS"
  | .kperm => "KPERM" | .hash _ => "HASH" | .rd8 _ => "RD8" | .rd16 _ => "RD16" | .rd32 _ => "RD32"
  | .wr8 _ _ => "WR8" | .wr16 _ _ => "WR16" | .wr32 _ _ => "WR32"

/-- The record of a bus transaction whose bits, numbered from byte 0 on, are w: byte i is bits [8i+7:8i] (log 1). -/
def recordBytes (w : Nat) : List Byte := (List.range 8).map fun i => BitVec.ofNat 8 (w / 2 ^ (8 * i))

/-- The instruction the decoder reads from an opcode-table word: 32 bits are a command word, any other length up to 64
is a transaction record whose bits above nbits are 0 (log 1). -/
def decodeTableWord (nbits w : Nat) : Option Instr :=
  if nbits = 32 then (decodeBytes (bytes4 (BitVec.ofNat 32 w))).toOption
  else if nbits ≤ 64 then (decodeBytes (recordBytes (w % 2 ^ nbits))).toOption
  else none

end Sys2Proof
end

