-- ==== Sys2Proof/Config.lean ====
section
/-! DEFINITION. What the spec leaves to the surroundings of the block, and the free values. No constant here has a
body: nothing in Lean can compute one, so a theorem about them holds whatever they are. -/

namespace Sys2Proof.Config

/-- The external permutation `keccakF : Bytes200 -> Bytes200` (spec/43 R182; log 5). -/
opaque keccakF : BitVec 1600 → BitVec 1600

/-- The n-th draw of a host read that hits the running command's write set (spec/44 R200, R206; log 7). -/
opaque busyRead : Nat → Word

/-- The n-th pick between before and after for STATUS.MIX_READY (bit 0), SEL (bit 1) and VAR_L (bit 2)
while a command that changes them runs (spec/44 R206; log 10). -/
opaque statusPick : Nat → BitVec 3

/-- What the n-th reset during a run leaves in STATE (spec/10 R42; log 4). -/
opaque resetState : Nat → BitVec 1600

/-- What the n-th reset during a run leaves in a byte of SP (spec/10 R42; log 4). -/
opaque resetSp : Nat → Nat → Byte

/-- What the n-th reset during a run leaves in RK (spec/10 R42; log 4). -/
opaque resetRk : Nat → BitVec 1280

/-- What the n-th reset during a run leaves in KEY (spec/10 R42; log 4). -/
opaque resetKey : Nat → BitVec 256

/-- What the n-th reset during a run leaves in BLK (spec/10 R42; log 4). -/
opaque resetBlk : Nat → Block

/-- What the n-th reset during a run leaves in RKEY (spec/10 R42; log 4). -/
opaque resetRkey : Nat → Block

/-- What the n-th reset during a run leaves in A (spec/10 R42; log 4). -/
opaque resetA : Nat → Block

/-- What the n-th reset during a run leaves in B (spec/10 R42; log 4). -/
opaque resetB : Nat → Block

/-- What the n-th reset during a run leaves in NONCE (spec/10 R42; log 4). -/
opaque resetNonce : Nat → Lane

/-- What the n-th reset during a run leaves in TWEAK (spec/10 R42; log 4). -/
opaque resetTweak : Nat → Lane

/-- Where the platform puts the host window (spec/20 R61; log 12). -/
opaque cncoreBase : Nat

/-- The platform's interrupt line the block's irq drives (spec/60 R238; log 12). -/
opaque cncoreIrqLine : Nat

end Sys2Proof.Config
end

