-- ==== Sys2Proof/Machine/State.lean ====
section
/-! DEFINITION. The state of CNCORE (spec/10), what its surroundings feed it, and the state after reset. -/

namespace Sys2Proof.Machine

/-- The error codes of spec/60 R231; `none` is code 0. -/
inductive ErrorCode where
  | none
  | cmdIllegal
  | cmdBusy
  | cmdPrecond
  | cmdSeq
  | busAccess
  | busUnmapped
  | busReadonly
  | busBusy
  deriving DecidableEq, Repr

/-- The bus response of spec/60 R233. -/
inductive Resp where
  | ok
  | err
  deriving DecidableEq, Repr

/-- What a transaction answers on the bus: a read also returns RDATA (spec/44 R200, R201). -/
structure BusReply where
  resp  : Resp
  rdata : Option Word
  deriving DecidableEq, Repr

/-- What the outside does next, one event a step (log 8). -/
inductive Event where
  /-- The host performs a transaction (spec/10 R20, spec/30 R89). -/
  | host (t : Txn)
  /-- The core sequencer takes its turn (spec/10 R20, spec/20 R63). -/
  | core
  /-- The reset input is asserted (spec/70 R260). -/
  | rst
  deriving DecidableEq, Repr

/-- The bytes of SP as (address, byte) pairs: addresses strictly rising, all below 2^21, and no entry equal to what an
unlisted address reads as (`Memory.wf`, log 2). -/
abbrev Memory := List Host.Cell

/-- Why a step stops. -/
inductive Fault where
  /-- BUSY = 1, but PEND holds no command word. Raised by the fetch of the core sequencer's turn. SAFE: no accepted
  command leads there (spec/44 R205), and `Safety.Inv` excludes it (log 9). -/
  | pendingWordIsNoCommand
  deriving DecidableEq, Repr

/-- Why an instruction is refused. -/
inductive Refusal where
  /-- The instruction has no meaning yet: raised by `exec` alone. SAFE. No arm of this model uses it. -/
  | notModelled (mnemonic : String)
  deriving DecidableEq, Repr

/-- All that the spec gives the machine (spec/10), then the model's own fields. -/
structure State where
  /-- STATE, 200 bytes (spec/10 R21). -/
  state : BitVec 1600
  /-- SP, the scratchpad (spec/10 R22). -/
  sp : Memory
  /-- RK, ten round keys of 16 bytes; entry k is bits [128k+127:128k] (spec/10 R23). -/
  rk : BitVec 1280
  /-- KEY, 32 bytes (spec/10 R24). -/
  key : BitVec 256
  /-- BLK, 16 bytes (spec/10 R25). -/
  blk : Block
  /-- RKEY, 16 bytes (spec/10 R26). -/
  rkey : Block
  /-- A, the mixer's register a (spec/10 R27). -/
  a : Block
  /-- B, the mixer's register b (spec/10 R27). -/
  b : Block
  /-- NONCE, 8 bytes (spec/10 R28). -/
  nonce : Lane
  /-- TWEAK, 8 bytes (spec/10 R29). -/
  tweak : Lane
  /-- VAR_L, the latched variant, STATUS[31:24] (spec/10 R30). -/
  varL : BitVec 8
  /-- MIX_READY, STATUS[8] (spec/10 R31). -/
  mixReady : Bool
  /-- ITER, the completed mixer iterations (spec/10 R32). -/
  iter : BitVec 20
  /-- MSGLEN (spec/10 R33). -/
  msglen : Word
  /-- PEND, the word of the accepted command (spec/10 R34). -/
  pend : Option Word
  /-- STATUS.BUSY (spec/10 R35). -/
  busy : Bool
  /-- STATUS.DONE (spec/10 R35). -/
  done : Bool
  /-- STATUS.ERR (spec/10 R35). -/
  err : Bool
  /-- STATUS.ECODE (spec/10 R35, spec/60 R231). -/
  ecode : ErrorCode
  /-- CTRL.IE_DONE (spec/10 R36). -/
  ieDone : Bool
  /-- CTRL.IE_ERR (spec/10 R36). -/
  ieErr : Bool
  /-- The Keccak port's request k_req (spec/43 R183). -/
  kReq : Bool
  /-- The model's own: whether the Keccak unit answers, the parameter of spec/43 R183 (log 5). -/
  keccakAnswers : Bool
  /-- The model's own: the answer of the last bus transaction (log 6). -/
  reply : Option BusReply
  /-- The model's own: how many free values have been drawn (log 7). -/
  draws : Nat
  /-- The model's own: what the outside does next (log 8). -/
  inputs : List Event
  deriving DecidableEq, Repr

/-- The machine right after reset (spec/10 R42). The control state is as R42 gives it; the data storage, which R42
leaves unspecified, is DESIGN CHOICE 0 (logs 2, 3), and so are the model's own fields (logs 5 to 8). -/
def State.reset : State where
  state := 0
  sp := []
  rk := 0
  key := 0
  blk := 0
  rkey := 0
  a := 0
  b := 0
  nonce := 0
  tweak := 0
  varL := 0
  mixReady := false
  iter := 0
  msglen := 0
  pend := none
  busy := false
  done := false
  err := false
  ecode := .none
  ieDone := false
  ieErr := false
  kReq := false
  keccakAnswers := true
  reply := none
  draws := 0
  inputs := []

end Sys2Proof.Machine
end

