-- ==== Sys2Proof/Machine/Operands.lean ====
section
/-! DEFINITION. The operand forms: the scratchpad address of a 16-byte value (spec/20 R54), the effective variant
(spec/42 R158), the size and the region of a host transaction (spec/20 R58 to R61), the data lanes (spec/30 R87). -/

namespace Sys2Proof.Machine

/-- `Addr(X)` of spec/20 R54, a scratchpad byte address. -/
def spAddr (x : Block) : Nat := (x.extractLsb' 0 24 &&& 0x1FFFF0#24).toNat

/-- The effective variant is 1 (spec/42 R158). -/
def effVariant1 (v : BitVec 8) : Bool := v == 1

/-- The size of SP in bytes (spec/10 R22). -/
@[irreducible] def spSize : Nat := 2 ^ 21

/-- The number of mixer iterations of a hash (spec/00 R5). -/
@[irreducible] def mixIterations : Nat := 2 ^ 19

/-- The number of 128-byte chunks of SP (spec/00 R5). -/
@[irreducible] def chunkCount : Nat := 2 ^ 14

/-- The size of SP as a number; the three sizes are irreducible so that no proof unfolds a loop over them by accident. -/
theorem spSize_eq : spSize = 2097152 := by norm_num [spSize]

/-- The iterations of a hash as a number. -/
theorem mixIterations_eq : mixIterations = 524288 := by norm_num [mixIterations]

/-- The chunks of SP as a number. -/
theorem chunkCount_eq : chunkCount = 16384 := by norm_num [chunkCount]

/-- The sizes of a host transaction (spec/30 R86). -/
inductive Size where
  | one
  | two
  | four
  deriving DecidableEq, Repr

/-- The size in bytes. -/
def Size.bytes : Size → Nat
  | .one => 1
  | .two => 2
  | .four => 4

/-- Bits [8s-1:0] of a bus word, zero-extended (spec/30 R86, R87). -/
def Size.lanes (z : Size) (v : Word) : Word := v &&& BitVec.ofNat 32 (2 ^ (8 * z.bytes) - 1)

/-- The regions of the host window (spec/20 R61). -/
inductive Region where
  | sp | state | cmd | status | ctrl | iter | msglen | id | nonce | tweak | key | blk | rkey | a | b | rk
  deriving DecidableEq, Repr

/-- The class of a region (spec/20 R59). -/
inductive RegionClass where
  | byteArray
  | wordOnly
  deriving DecidableEq, Repr

/-- The access of a region (spec/20 R61). -/
inductive RegionAccess where
  | rw
  | ro
  | wo
  | rwW1c
  deriving DecidableEq, Repr

/-- A row of the address map (spec/20 R61). -/
structure RegionRow where
  start : Nat
  bytes : Nat
  region : Region
  cls : RegionClass
  access : RegionAccess
  deriving DecidableEq, Repr

/-- The address map of spec/20 R61, in its order; what no row covers is unmapped. -/
def regionRows : List RegionRow :=
  [⟨0x000000, 2 ^ 21, .sp, .byteArray, .rw⟩,
   ⟨0x200000, 200, .state, .byteArray, .rw⟩,
   ⟨0x200100, 4, .cmd, .wordOnly, .wo⟩,
   ⟨0x200104, 4, .status, .wordOnly, .rwW1c⟩,
   ⟨0x200108, 4, .ctrl, .wordOnly, .rw⟩,
   ⟨0x20010C, 4, .iter, .wordOnly, .ro⟩,
   ⟨0x200110, 4, .msglen, .wordOnly, .rw⟩,
   ⟨0x200114, 4, .id, .wordOnly, .ro⟩,
   ⟨0x200118, 8, .nonce, .byteArray, .rw⟩,
   ⟨0x200120, 8, .tweak, .byteArray, .ro⟩,
   ⟨0x200140, 32, .key, .byteArray, .rw⟩,
   ⟨0x200160, 16, .blk, .byteArray, .rw⟩,
   ⟨0x200170, 16, .rkey, .byteArray, .rw⟩,
   ⟨0x200180, 16, .a, .byteArray, .ro⟩,
   ⟨0x200190, 16, .b, .byteArray, .ro⟩,
   ⟨0x200200, 160, .rk, .byteArray, .ro⟩]

/-- The address lies in the row's range. -/
def RegionRow.holds (r : RegionRow) (addr : Nat) : Bool := decide (r.start ≤ addr) && decide (addr < r.start + r.bytes)

/-- `Region(addr)` of spec/44 R202: the row that holds the address, or none where it is unmapped. -/
def regionOf (addr : Nat) : Option RegionRow := regionRows.find? fun r => r.holds addr

/-- The window address of CMD (spec/20 R61). -/
def cmdAddr : WinAddr := 0x200100

/-- The window address of STATUS (spec/20 R61). -/
def statusAddr : WinAddr := 0x200104

/-- The window address of CTRL (spec/20 R61). -/
def ctrlAddr : WinAddr := 0x200108

end Sys2Proof.Machine
end

