-- ==== Sys2Proof/Machine/Flags.lean ====
section
/-! DEFINITION. STATUS, CTRL and the interrupt: every flag the spec gives and how it changes (spec/10 R35, R36,
spec/44 R203 to R205, R209, spec/60 R231, R232, R238). -/

namespace Sys2Proof.Machine

/-- The code of an error in STATUS[7:4] (spec/60 R231). -/
def ErrorCode.code : ErrorCode → BitVec 4
  | .none => 0
  | .cmdIllegal => 1
  | .cmdBusy => 2
  | .cmdPrecond => 3
  | .cmdSeq => 4
  | .busAccess => 5
  | .busUnmapped => 6
  | .busReadonly => 7
  | .busBusy => 8

/-- The selector of a STATE: `STATE[0] AND 0x03` (spec/10 R40). -/
def selOf (st : BitVec 1600) : BitVec 2 := st.extractLsb' 0 2

/-- SEL, read live (spec/10 R40). -/
def State.sel (s : State) : BitVec 2 := selOf s.state

/-- irq (spec/60 R238). -/
def State.irq (s : State) : Bool := (s.done && s.ieDone) || (s.err && s.ieErr)

/-- The platform's interrupt lines the block drives (spec/60 R238, log 12). -/
def State.irqLine (s : State) (line : Nat) : Bool := line == Config.cncoreIrqLine && s.irq

/-- The window address of a host physical address: the platform subtracts CNCORE_BASE (spec/44 R202, log 12). -/
def windowAddr (phys : Nat) : Option WinAddr :=
  if Config.cncoreBase ≤ phys ∧ phys < Config.cncoreBase + 2 ^ 22 then
    some (BitVec.ofNat 22 (phys - Config.cncoreBase))
  else none

/-- A flag as a 32-bit word with the flag in bit 0. -/
def bit32 (b : Bool) : Word := (BitVec.ofBool b).setWidth 32

/-- The STATUS word composed of its fields; every reserved bit is 0 (spec/10 R35, spec/44 R209). -/
def statusOf (busy done err : Bool) (ecode : ErrorCode) (mixReady : Bool) (sel : BitVec 2) (varL : BitVec 8) : Word :=
  bit32 busy ||| (bit32 done <<< 1) ||| (bit32 err <<< 2) ||| (ecode.code.setWidth 32 <<< 4) |||
    (bit32 mixReady <<< 8) ||| (sel.setWidth 32 <<< 12) ||| (varL.setWidth 32 <<< 24)

/-- STATUS (spec/44 R209). -/
def State.statusWord (s : State) : Word := statusOf s.busy s.done s.err s.ecode s.mixReady s.sel s.varL

/-- CTRL (spec/44 R209). -/
def State.ctrlWord (s : State) : Word := bit32 s.ieDone ||| (bit32 s.ieErr <<< 1)

/-- ID (spec/10 R37). -/
def idValue : Word := 0x434E0007

/-- A host write of w to STATUS (spec/44 R203). -/
def State.statusWrite (s : State) (w : Word) : State :=
  { s with
    done := if w.getLsbD 1 then false else s.done
    err := if w.getLsbD 2 then false else s.err
    ecode := if w.getLsbD 2 then .none else s.ecode }

/-- A host write of w to CTRL (spec/44 R204). -/
def State.ctrlWrite (s : State) (w : Word) : State := { s with ieDone := w.getLsbD 0, ieErr := w.getLsbD 1 }

/-- Acceptance of the command word w (spec/44 R205, spec/20 R63). -/
def State.accept (s : State) (w : Word) : State := { s with pend := some w, busy := true, done := false }

/-- The end of every completion step (spec/20 R63, spec/44 R205). The Keccak request falls with the answer
(spec/43 R183). -/
def State.complete (s : State) : State := { s with busy := false, done := true, pend := none, kReq := false }

/-- A completion step that waits for the Keccak unit: the request is held, nothing else moves (spec/43 R183,
spec/60 R248, log 5). -/
def State.awaitKeccak (s : State) : State := { s with kReq := true }

end Sys2Proof.Machine
end

