-- ==== Sys2Proof/Machine/Ops.lean ====
section
/-! DEFINITION. The shared operations: the scratchpad primitives (spec/20 R53), raising an error and acknowledging it
(spec/60 R232, R233, R240), the bytes of the host window (spec/20 R61), issuing a command (spec/44 R205), the reset
step (spec/70 R260) and the fetch of the next instruction (spec/10 R20, spec/20 R63). -/

namespace Sys2Proof.Machine

/-! ### Scratchpad -/

/-- What an address of SP that nothing has written reads as (DESIGN CHOICE, log 2). -/
def Memory.unlisted : Byte := 0

/-- The byte at an address of SP. -/
def Memory.read : Memory → Nat → Byte
  | [], _ => Memory.unlisted
  | (k, v) :: rest, addr => if addr = k then v else Memory.read rest addr

/-- One byte written to SP, in canonical form. -/
def Memory.write : Memory → Nat → Byte → Memory
  | [], addr, v => if v = Memory.unlisted then [] else [(addr, v)]
  | (k, x) :: rest, addr, v =>
    if addr < k then (if v = Memory.unlisted then (k, x) :: rest else (addr, v) :: (k, x) :: rest)
    else if addr = k then (if v = Memory.unlisted then rest else (addr, v) :: rest)
    else (k, x) :: Memory.write rest addr v

/-- The canonical form, above a lower bound on the addresses. -/
def Memory.wfFrom : Nat → Memory → Bool
  | _, [] => true
  | lo, (k, v) :: rest => decide (lo ≤ k) && decide (k < spSize) && v != Memory.unlisted && Memory.wfFrom (k + 1) rest

/-- The canonical form of SP: addresses strictly rising and inside SP, no entry equal to what an unlisted address reads
as (log 2). -/
def Memory.wf (m : Memory) : Bool := Memory.wfFrom 0 m

/-- `MemRead(addr, n)` of spec/20 R53, the n bytes as the low bits of a w-bit array. -/
def Memory.readN (w : Nat) (m : Memory) (addr n : Nat) : BitVec w := pack w (fun i => Memory.read m (addr + i)) n

/-- `MemWrite(addr, n, v)` of spec/20 R53, the n low bytes of v. -/
def Memory.writeN {w : Nat} (m : Memory) (addr : Nat) (v : BitVec w) : Nat → Memory
  | 0 => m
  | n + 1 => Memory.write (Memory.writeN m addr v n) (addr + n) (byteAt v n)

/-- A cell read (spec/20 R57). -/
def Memory.readCell (m : Memory) (addr : Nat) : Block := Memory.readN 128 m addr 16

/-- A cell written (spec/20 R57). -/
def Memory.writeCell (m : Memory) (addr : Nat) (v : Block) : Memory := Memory.writeN m addr v 16

/-- Consecutive 16-byte blocks written from an address on: the 128 bytes of a chunk (spec/20 R57). -/
def Memory.writeBlocks : Memory → Nat → List Block → Memory
  | m, _, [] => m
  | m, addr, v :: rest => Memory.writeBlocks (Memory.writeCell m addr v) (addr + 16) rest

/-- The memory whose first n bytes are `f 0`, `f 1`, …. -/
def Memory.ofFn (f : Nat → Byte) : Nat → Memory
  | 0 => []
  | n + 1 => Memory.write (Memory.ofFn f n) n (f n)

/-! ### Errors -/

/-- `RecordError(E)` of spec/60 R232: the first error since ERR was cleared keeps its code. -/
def State.recordError (s : State) (e : ErrorCode) : State :=
  { s with ecode := if s.err then s.ecode else e, err := true }

/-- The answer of a transaction on the bus (spec/60 R233, log 6). -/
def State.answer (s : State) (resp : Resp) (rdata : Option Word) : State := { s with reply := some ⟨resp, rdata⟩ }

/-- `raise BUS_*`: the error is recorded, the transaction answers ERR and, if a read, RDATA = 0 (spec/60 R232, R233).
This is all that taking an error is in CNCORE (spec/60 R230, R239); the host returns from it by a STATUS write
(`State.statusWrite`, spec/60 R240). -/
def State.raiseBus (s : State) (e : ErrorCode) (isRead : Bool) : State :=
  (s.recordError e).answer .err (if isRead then some 0 else none)

/-- `raise CMD_*`: the error is recorded and the CMD write answers OK (spec/60 R232, R233). -/
def State.raiseCmd (s : State) (e : ErrorCode) : State := s.recordError e

/-! ### The host window -/

/-- Byte i of a byte-array region (spec/20 R61); a word-only region is read through `regValue` instead. -/
def State.regionByte (s : State) (r : Region) (i : Nat) : Byte :=
  match r with
  | .sp => Memory.read s.sp i
  | .state => byteAt s.state i
  | .nonce => byteAt s.nonce i
  | .tweak => byteAt s.tweak i
  | .key => byteAt s.key i
  | .blk => byteAt s.blk i
  | .rkey => byteAt s.rkey i
  | .a => byteAt s.a i
  | .b => byteAt s.b i
  | .rk => byteAt s.rk i
  | .cmd | .status | .ctrl | .iter | .msglen | .id => 0

/-- Byte i of a writable byte-array region replaced (spec/20 R61, spec/44 R201); no other region is written so. -/
def State.setRegionByte (s : State) (r : Region) (i : Nat) (v : Byte) : State :=
  match r with
  | .sp => { s with sp := Memory.write s.sp i v }
  | .state => { s with state := setByte s.state i v }
  | .nonce => { s with nonce := setByte s.nonce i v }
  | .key => { s with key := setByte s.key i v }
  | .blk => { s with blk := setByte s.blk i v }
  | .rkey => { s with rkey := setByte s.rkey i v }
  | .tweak | .a | .b | .rk | .cmd | .status | .ctrl | .iter | .msglen | .id => s

/-- The n bytes of a byte-array region from offset `off` on, little-endian, zero-extended (spec/30 R87). -/
def State.regionBytes (s : State) (r : Region) (off n : Nat) : Word :=
  pack 32 (fun i => s.regionByte r (off + i)) n

/-- The n low bytes of v written to a byte-array region from offset `off` on (spec/30 R87, spec/44 R201). -/
def State.setRegionBytes (s : State) (r : Region) (off : Nat) (v : Word) : Nat → State
  | 0 => s
  | n + 1 => (s.setRegionBytes r off v n).setRegionByte r (off + n) (byteAt v n)

/-! ### Issuing a command -/

/-- The error a command word raises at issue, in the order of spec/60 R235, or none. -/
def issueError (s : State) (w : Word) : Option ErrorCode :=
  if s.busy then some .cmdBusy
  else
    match decodeCommand w with
    | .error _ => some .cmdIllegal
    | .ok .mixStep => if !s.mixReady || s.iter == BitVec.ofNat 20 mixIterations then some .cmdSeq else none
    | .ok .mixRun => if !s.mixReady then some .cmdSeq else none
    | .ok (.mixInit v) => if v == 1 && decide (s.msglen.toNat < 43) then some .cmdPrecond else none
    | .ok (.hash v) => if v == 1 && decide (s.msglen.toNat < 43) then some .cmdPrecond else none
    | .ok _ => none

/-- `IssueCommand(w)` of spec/44 R205. -/
def State.issueCommand (s : State) (w : Word) : State :=
  match issueError s w with
  | some e => s.raiseCmd e
  | none => s.accept w

/-- The command the core sequencer is executing (spec/10 R34). -/
def State.running (s : State) : Option Instr :=
  if s.busy then
    match s.pend with
    | some w => (decodeCommand w).toOption
    | none => none
  else none

/-! ### Reset -/

/-- The reset step (spec/10 R42, spec/70 R260, R261). The data storage takes free values (log 4); the environment's
`keccakAnswers` and the inputs still to come are not the block's and stay. -/
def State.resetStep (s : State) : State :=
  let n := s.draws
  { State.reset with
    state := Config.resetState n
    sp := Memory.ofFn (Config.resetSp n) spSize
    rk := Config.resetRk n
    key := Config.resetKey n
    blk := Config.resetBlk n
    rkey := Config.resetRkey n
    a := Config.resetA n
    b := Config.resetB n
    nonce := Config.resetNonce n
    tweak := Config.resetTweak n
    keccakAnswers := s.keccakAnswers
    draws := n + 1
    inputs := s.inputs }

/-! ### Fetch -/

/-- What the machine does next. -/
inductive Fetched where
  /-- Execute an instruction in a state. -/
  | run (i : Instr) (s : State)
  /-- Go to a state without an instruction: an idle turn, a reserved transaction, a reset. -/
  | now (s : State)
  /-- Stop. -/
  | stop (f : Fault)
  deriving DecidableEq, Repr

/-- The turn of the core sequencer: idle while BUSY = 0, else the command in PEND (spec/10 R20, R34). -/
def fetchCore (s : State) : Fetched :=
  if s.busy then
    match s.pend with
    | some w =>
      match decodeCommand w with
      | .ok i => .run i s
      | .error _ => .stop .pendingWordIsNoCommand
    | none => .stop .pendingWordIsNoCommand
  else .now s

/-- The host's transaction: a reserved size raises BUS_ACCESS before any other check (spec/30 R86, spec/60 R234). -/
def fetchHost (t : Txn) (s : State) : Fetched :=
  match decodeTxn t with
  | .ok i => .run i s
  | .error _ => .now (s.raiseBus .busAccess (!t.tc.getLsbD 2))

/-- The next event of the inputs, taken off the list; with none left the core sequencer moves (spec/60 R237,
spec/70 R273, log 8). -/
def fetch (s : State) : Fetched :=
  match s.inputs with
  | [] => fetchCore s
  | .host t :: rest => fetchHost t { s with inputs := rest }
  | .core :: rest => fetchCore { s with inputs := rest }
  | .rst :: rest => .now ({ s with inputs := rest }.resetStep)

/-- The command word w, accepted and about to be completed (log 8). -/
def State.withCommand (s : State) (w : Word) : State :=
  { s with pend := some w, busy := true, inputs := .core :: s.inputs }

/-- The host transaction t, about to be performed (log 8). -/
def State.withTxn (s : State) (t : Txn) : State := { s with inputs := .host t :: s.inputs }

/-- The opcode-table word w of nbits bits, placed where the step fetches its next instruction: 32 bits go to PEND, any
other length is a transaction record (log 1, log 8). A record that is no transaction is not placed. -/
def State.placeWord (s : State) (nbits w : Nat) : State :=
  if nbits = 32 then s.withCommand (BitVec.ofNat 32 w)
  else
    let v := w % 2 ^ nbits
    match Txn.ofRecord (BitVec.ofNat 8 v) (BitVec.ofNat 32 (v / 2 ^ 8 % 2 ^ 24)) (BitVec.ofNat 32 (v / 2 ^ 32)) with
    | some t => s.withTxn t
    | none => s

end Sys2Proof.Machine
end

