-- ==== Sys2Proof/Machine/AesEngine.lean ====
section
/-! DEFINITION. The AES round engine and its commands KEYEXP, ENC10 and ENC1 (spec/40). -/

namespace Sys2Proof.Machine

/-- The S-box table, a row for each high nibble (spec/40 R111). -/
def sboxRows : List (List Byte) :=
  [[0x63, 0x7c, 0x77, 0x7b, 0xf2, 0x6b, 0x6f, 0xc5, 0x30, 0x01, 0x67, 0x2b, 0xfe, 0xd7, 0xab, 0x76],
   [0xca, 0x82, 0xc9, 0x7d, 0xfa, 0x59, 0x47, 0xf0, 0xad, 0xd4, 0xa2, 0xaf, 0x9c, 0xa4, 0x72, 0xc0],
   [0xb7, 0xfd, 0x93, 0x26, 0x36, 0x3f, 0xf7, 0xcc, 0x34, 0xa5, 0xe5, 0xf1, 0x71, 0xd8, 0x31, 0x15],
   [0x04, 0xc7, 0x23, 0xc3, 0x18, 0x96, 0x05, 0x9a, 0x07, 0x12, 0x80, 0xe2, 0xeb, 0x27, 0xb2, 0x75],
   [0x09, 0x83, 0x2c, 0x1a, 0x1b, 0x6e, 0x5a, 0xa0, 0x52, 0x3b, 0xd6, 0xb3, 0x29, 0xe3, 0x2f, 0x84],
   [0x53, 0xd1, 0x00, 0xed, 0x20, 0xfc, 0xb1, 0x5b, 0x6a, 0xcb, 0xbe, 0x39, 0x4a, 0x4c, 0x58, 0xcf],
   [0xd0, 0xef, 0xaa, 0xfb, 0x43, 0x4d, 0x33, 0x85, 0x45, 0xf9, 0x02, 0x7f, 0x50, 0x3c, 0x9f, 0xa8],
   [0x51, 0xa3, 0x40, 0x8f, 0x92, 0x9d, 0x38, 0xf5, 0xbc, 0xb6, 0xda, 0x21, 0x10, 0xff, 0xf3, 0xd2],
   [0xcd, 0x0c, 0x13, 0xec, 0x5f, 0x97, 0x44, 0x17, 0xc4, 0xa7, 0x7e, 0x3d, 0x64, 0x5d, 0x19, 0x73],
   [0x60, 0x81, 0x4f, 0xdc, 0x22, 0x2a, 0x90, 0x88, 0x46, 0xee, 0xb8, 0x14, 0xde, 0x5e, 0x0b, 0xdb],
   [0xe0, 0x32, 0x3a, 0x0a, 0x49, 0x06, 0x24, 0x5c, 0xc2, 0xd3, 0xac, 0x62, 0x91, 0x95, 0xe4, 0x79],
   [0xe7, 0xc8, 0x37, 0x6d, 0x8d, 0xd5, 0x4e, 0xa9, 0x6c, 0x56, 0xf4, 0xea, 0x65, 0x7a, 0xae, 0x08],
   [0xba, 0x78, 0x25, 0x2e, 0x1c, 0xa6, 0xb4, 0xc6, 0xe8, 0xdd, 0x74, 0x1f, 0x4b, 0xbd, 0x8b, 0x8a],
   [0x70, 0x3e, 0xb5, 0x66, 0x48, 0x03, 0xf6, 0x0e, 0x61, 0x35, 0x57, 0xb9, 0x86, 0xc1, 0x1d, 0x9e],
   [0xe1, 0xf8, 0x98, 0x11, 0x69, 0xd9, 0x8e, 0x94, 0x9b, 0x1e, 0x87, 0xe9, 0xce, 0x55, 0x28, 0xdf],
   [0x8c, 0xa1, 0x89, 0x0d, 0xbf, 0xe6, 0x42, 0x68, 0x41, 0x99, 0x2d, 0x0f, 0xb0, 0x54, 0xbb, 0x16]]

/-- `SBOX[b]` (spec/40 R111). -/
def sbox (b : Byte) : Byte := (sboxRows.getD (b.toNat / 16) []).getD (b.toNat % 16) 0

/-- SubBytes (spec/40 R111). -/
def subBytes (x : Block) : Block := pack 128 (fun i => sbox (byteAt x i)) 16

/-- The input byte that ShiftRows moves to byte i = r + 4c (spec/40 R112). -/
def shiftRowsFrom (i : Nat) : Nat := i % 4 + 4 * ((i / 4 + i % 4) % 4)

/-- ShiftRows (spec/40 R112). -/
def shiftRows (x : Block) : Block := pack 128 (fun i => byteAt x (shiftRowsFrom i)) 16

/-- Multiplication by x in GF(2^8) (spec/40 R113). -/
def xtime (b : Byte) : Byte := (b <<< 1) ^^^ (if b.getLsbD 7 then 0x1B else 0)

/-- `mul2` of spec/40 R113. -/
def mul2 (b : Byte) : Byte := xtime b

/-- `mul3` of spec/40 R113. -/
def mul3 (b : Byte) : Byte := xtime b ^^^ b

/-- Row r of a column a0..a3 after MixColumns (spec/40 R114). -/
def mixRow (r : Nat) (a0 a1 a2 a3 : Byte) : Byte :=
  match r with
  | 0 => mul2 a0 ^^^ mul3 a1 ^^^ a2 ^^^ a3
  | 1 => a0 ^^^ mul2 a1 ^^^ mul3 a2 ^^^ a3
  | 2 => a0 ^^^ a1 ^^^ mul2 a2 ^^^ mul3 a3
  | _ => mul3 a0 ^^^ a1 ^^^ a2 ^^^ mul2 a3

/-- MixColumns: byte i = r + 4c is row r of column c (spec/40 R110, R114). -/
def mixColumns (x : Block) : Block :=
  pack 128 (fun i =>
    let c := 4 * (i / 4)
    mixRow (i % 4) (byteAt x c) (byteAt x (c + 1)) (byteAt x (c + 2)) (byteAt x (c + 3))) 16

/-- AddRoundKey (spec/40 R115). -/
def addRoundKey (x k : Block) : Block := x ^^^ k

/-- `AesRound(X, K)` (spec/40 R116). -/
def aesRound (x k : Block) : Block := addRoundKey (mixColumns (shiftRows (subBytes x))) k

/-- Round key k of a round key file (spec/10 R23). -/
def roundKey (rks : BitVec 1280) (k : Nat) : Block := blockFrom rks (16 * k)

/-- The first n rounds of EncryptRounds, with round keys 0 to n-1 in order (spec/40 R117). -/
def encryptFirst (rks : BitVec 1280) (x : Block) : Nat → Block
  | 0 => x
  | n + 1 => aesRound (encryptFirst rks x n) (roundKey rks n)

/-- `EncryptRounds(X, RKs)`: ten full rounds (spec/40 R117). -/
def encryptRounds (x : Block) (rks : BitVec 1280) : Block := encryptFirst rks x 10

/-- `EncryptSingleRound(X, K)` (spec/40 R118). -/
def encryptSingleRound (x k : Block) : Block := aesRound x k

/-- RotWord on a word whose byte 0 is lowest (spec/40 R119). -/
def rotWord (t : Word) : Word := le32 (byteAt t 1) (byteAt t 2) (byteAt t 3) (byteAt t 0)

/-- SubWord (spec/40 R119). -/
def subWord (t : Word) : Word :=
  le32 (sbox (byteAt t 0)) (sbox (byteAt t 1)) (sbox (byteAt t 2)) (sbox (byteAt t 3))

/-- `RCON[k]` for k = 1..4 (spec/40 R119, R120). -/
def rcon : Nat → Byte
  | 1 => 0x01
  | 2 => 0x02
  | 3 => 0x04
  | 4 => 0x08
  | _ => 0x00

/-- What word i of the key expansion XORs into w[i-8], from t = w[i-1] (spec/40 R119). -/
def keyMix (i : Nat) (t : Word) : Word :=
  if i % 8 = 0 then subWord (rotWord t) ^^^ (rcon (i / 8)).setWidth 32
  else if i % 8 = 4 then subWord t
  else t

/-- The first 8 + n words of the key expansion, the last one first (spec/40 R119). -/
def keyWords (k : BitVec 256) : Nat → List Word
  | 0 => [wordAt k 7, wordAt k 6, wordAt k 5, wordAt k 4, wordAt k 3, wordAt k 2, wordAt k 1, wordAt k 0]
  | n + 1 =>
    let ws := keyWords k n
    (ws.getD 7 0 ^^^ keyMix (8 + n) (ws.getD 0 0)) :: ws

/-- `ExpandKey(K)`: 40 words, ten round keys (spec/40 R119). -/
def expandKey (k : BitVec 256) : BitVec 1280 :=
  let ws := (keyWords k 32).reverse
  pack 1280 (fun i => ws.getD i 0) 40

/-- KEYEXP, its completion step (spec/40 R121). -/
def execKeyexp (s : State) : Host.Outcome State Fault Refusal :=
  .next { s with rk := expandKey s.key }.complete

/-- ENC10, its completion step (spec/40 R122). -/
def execEnc10 (s : State) : Host.Outcome State Fault Refusal :=
  .next { s with blk := encryptRounds s.blk s.rk }.complete

/-- ENC1, its completion step (spec/40 R123). -/
def execEnc1 (s : State) : Host.Outcome State Fault Refusal :=
  .next { s with blk := encryptSingleRound s.blk s.rkey }.complete

end Sys2Proof.Machine
end

