-- ==== Sys2Proof/Machine/Mixer.lean ====
section
/-! DEFINITION. The memory-hard mixer: MIX_INIT, MIX_STEP and MIX_RUN (spec/42). -/

namespace Sys2Proof.Machine

/-- `TweakXor(t)` of spec/42 R152. -/
def tweakXor (t : Byte) : Byte :=
  ((~~~t &&& 1) <<< 4) ||| ((((~~~t &&& 1) <<< 4) &&& t) <<< 1) ||| ((t &&& 32) >>> 1)

/-- `Mul(c, d)` of spec/42 R153: the exact product of the low lanes, high half first. -/
def mulLanes (c d : Block) : Block :=
  let p := (lane0 c).toNat * (lane0 d).toNat
  cell (BitVec.ofNat 64 (p / 2 ^ 64)) (BitVec.ofNat 64 p)

/-- `LaneAdd(X, Y)` of spec/42 R154: each lane wraps on its own. -/
def laneAdd (x y : Block) : Block := cell (lane0 x + lane0 y) (lane1 x + lane1 y)

/-- `Tweak(v)` of spec/42 R151. -/
def tweakOf (v : BitVec 8) (st : BitVec 1600) (nonce : Lane) : Lane :=
  if effVariant1 v then laneFrom st 192 ^^^ nonce else 0

/-- Step 5 of spec/42 R155: the variant-1 change of byte 11 of a cell. -/
def tweakByte11 (m : Memory) (addr : Nat) : Memory :=
  let t := Memory.read m (addr + 11)
  Memory.write m (addr + 11) (t ^^^ tweakXor t)

/-- Step 12 of spec/42 R155: the first n of the eight tweak bytes XORed into the cell's second lane. -/
def tweakLane1 (m : Memory) (addr : Nat) (tweak : Lane) : Nat → Memory
  | 0 => m
  | n + 1 =>
    let m' := tweakLane1 m addr tweak n
    Memory.write m' (addr + 8 + n) (Memory.read m' (addr + 8 + n) ^^^ byteAt tweak n)

/-- `MixIteration(effv)` of spec/42 R155, step by step; `m3` is SP after step 3 and so on. -/
def mixIteration (effv1 : Bool) (s : State) : State :=
  let addr := spAddr s.a
  let c := aesRound (Memory.readCell s.sp addr) s.a
  let m3 := Memory.writeCell s.sp addr (s.b ^^^ c)
  let m5 := if effv1 then tweakByte11 m3 addr else m3
  let addr2 := spAddr c
  let d := Memory.readCell m5 addr2
  let a9 := laneAdd s.a (mulLanes c d)
  let m10 := Memory.writeCell m5 addr2 a9
  let m12 := if effv1 then tweakLane1 m10 addr2 s.tweak 8 else m10
  { s with sp := m12, a := a9 ^^^ d, b := c, iter := s.iter + 1 }

/-- The loop of MIX_RUN, `while x[ITER] < 2^19`, with a bound on the iterations that it can never exceed
(spec/42 R157). -/
def mixLoop : Nat → State → State
  | 0, s => s
  | fuel + 1, s =>
    if s.iter.toNat < mixIterations then mixLoop fuel (mixIteration (effVariant1 s.varL) s) else s

/-- The body of MIX_INIT v (spec/42 R150). -/
def mixInitBody (v : BitVec 8) (s : State) : State :=
  { s with
    a := blockFrom s.state 0 ^^^ blockFrom s.state 32
    b := blockFrom s.state 16 ^^^ blockFrom s.state 48
    varL := v
    tweak := tweakOf v s.state s.nonce
    iter := 0
    mixReady := true }

/-- The body of MIX_STEP (spec/42 R156). -/
def mixStepBody (s : State) : State := mixIteration (effVariant1 s.varL) s

/-- The body of MIX_RUN (spec/42 R157). -/
def mixRunBody (s : State) : State := mixLoop mixIterations s

/-- MIX_INIT v, its completion step (spec/42 R150). -/
def execMixInit (v : BitVec 8) (s : State) : Host.Outcome State Fault Refusal := .next (mixInitBody v s).complete

/-- MIX_STEP, its completion step (spec/42 R156). -/
def execMixStep (s : State) : Host.Outcome State Fault Refusal := .next (mixStepBody s).complete

/-- MIX_RUN, its completion step (spec/42 R157). -/
def execMixRun (s : State) : Host.Outcome State Fault Refusal := .next (mixRunBody s).complete

end Sys2Proof.Machine
end

