-- ==== Sys2Proof/Machine/ScratchpadInit.lean ====
section
/-! DEFINITION. The scratchpad initializer SP_INIT (spec/41). -/

namespace Sys2Proof.Machine

/-- The eight 16-byte sub-blocks of `STATE[64:192)` (spec/41 R140, spec/43 R180). -/
def seedBlocks (st : BitVec 1600) : List Block := (List.range 8).map fun j => blockFrom st (64 + 16 * j)

/-- `EncryptRounds` on each sub-block of the 128-byte text (spec/41 R140). -/
def encryptText (rks : BitVec 1280) (text : List Block) : List Block := text.map fun x => encryptRounds x rks

/-- The loop of SP_INIT from chunk n on, `count` chunks: encrypt the text, then write it to chunk n
(spec/41 R140). -/
def spInitLoop (rks : BitVec 1280) : (count n : Nat) → List Block → Memory → Memory
  | 0, _, _, m => m
  | count + 1, n, text, m =>
    let text' := encryptText rks text
    spInitLoop rks count (n + 1) text' (Memory.writeBlocks m (128 * n) text')

/-- The body of SP_INIT (spec/41 R140). -/
def spInitBody (s : State) : State :=
  let rks := expandKey (s.state.extractLsb' 0 256)
  { s with rk := rks, sp := spInitLoop rks chunkCount 0 (seedBlocks s.state) s.sp }

/-- SP_INIT, its completion step (spec/41 R140). -/
def execSpInit (s : State) : Host.Outcome State Fault Refusal := .next (spInitBody s).complete

end Sys2Proof.Machine
end

