-- ==== Sys2Proof/Machine/CompressPermute.lean ====
section
/-! DEFINITION. The result compressor, the Keccak permute invoker, HASH and NOP (spec/43). -/

namespace Sys2Proof.Machine

/-- The inner loop of COMPRESS over the sub-blocks of a chunk, from address `addr` on: XOR with the carry, encrypt,
write in place, carry on (spec/43 R180). Answers the memory and the new carry. -/
def compressChunk (rks : BitVec 1280) : Nat → List Block → Memory → Memory × List Block
  | _, [], m => (m, [])
  | addr, x :: rest, m =>
    let v := encryptRounds (Memory.readCell m addr ^^^ x) rks
    let r := compressChunk rks (addr + 16) rest (Memory.writeCell m addr v)
    (r.1, v :: r.2)

/-- The loop of COMPRESS from chunk n on, `count` chunks (spec/43 R180). -/
def compressLoop (rks : BitVec 1280) : (count n : Nat) → List Block → Memory → Memory × List Block
  | 0, _, blocks, m => (m, blocks)
  | count + 1, n, blocks, m =>
    let r := compressChunk rks (128 * n) blocks m
    compressLoop rks count (n + 1) r.2 r.1

/-- `STATE[64:192)` replaced by eight sub-blocks (spec/43 R180). -/
def putBlocks (st : BitVec 1600) (blocks : List Block) : BitVec 1600 :=
  setBits st (8 * 64) (pack 1024 (fun j => blocks.getD j 0) 8)

/-- What COMPRESS writes, from its round keys and the outcome of its loop (spec/43 R180). -/
def compressWith (rks : BitVec 1280) (r : Memory × List Block) (s : State) : State :=
  { s with rk := rks, sp := r.1, state := putBlocks s.state r.2 }

/-- The body of COMPRESS (spec/43 R180). -/
def compressBody (s : State) : State :=
  let rks := expandKey (s.state.extractLsb' 256 256)
  compressWith rks (compressLoop rks chunkCount 0 (seedBlocks s.state) s.sp) s

/-- The body of KPERM: one request and its answer on the Keccak port (spec/43 R182, R183). -/
def kpermBody (s : State) : State := { s with state := Config.keccakF s.state }

/-- The stages of HASH v before the permutation (spec/43 R184). -/
def hashStages (v : BitVec 8) (s : State) : State := compressBody (mixRunBody (mixInitBody v (spInitBody s)))

/-- The body of HASH v (spec/43 R184). -/
def hashBody (v : BitVec 8) (s : State) : State := kpermBody (hashStages v s)

/-- The Keccak port's `k_out` while the request is held: the state sent (spec/43 R183). -/
def State.kOut (s : State) : Option (BitVec 1600) :=
  if s.kReq then
    match s.running with
    | some (.hash v) => some (hashStages v s).state
    | some _ => some s.state
    | none => none
  else none

/-- NOP, its completion step (spec/43 R185). -/
def execNop (s : State) : Host.Outcome State Fault Refusal := .next s.complete

/-- COMPRESS, its completion step (spec/43 R180). -/
def execCompress (s : State) : Host.Outcome State Fault Refusal := .next (compressBody s).complete

/-- KPERM, its completion step; without the Keccak unit's answer the command waits (spec/43 R182, R183,
spec/60 R248, log 5). -/
def execKperm (s : State) : Host.Outcome State Fault Refusal :=
  .next (if s.keccakAnswers then (kpermBody s).complete else s.awaitKeccak)

/-- HASH v, its completion step; without the Keccak unit's answer the command waits (spec/43 R183, R184,
spec/60 R248, log 5). -/
def execHash (v : BitVec 8) (s : State) : Host.Outcome State Fault Refusal :=
  .next (if s.keccakAnswers then (hashBody v s).complete else s.awaitKeccak)

end Sys2Proof.Machine
end

