-- ==== Sys2Proof/Machine/HostAccess.lean ====
section
/-! DEFINITION. The host bus transactions RD8, RD16, RD32, WR8, WR16 and WR32 (spec/44). -/

namespace Sys2Proof.Machine

/-- Some bytes of a region: offsets lo to hi-1. -/
structure Span where
  region : Region
  lo : Nat
  hi : Nat
  deriving DecidableEq, Repr

/-- `WriteSet(op)` of spec/44 R206: the bytes a running command writes. -/
def writeSet : Instr → List Span
  | .nop => []
  | .keyexp => [⟨.rk, 0, 160⟩]
  | .enc10 => [⟨.blk, 0, 16⟩]
  | .enc1 => [⟨.blk, 0, 16⟩]
  | .spInit => [⟨.rk, 0, 160⟩, ⟨.sp, 0, spSize⟩]
  | .mixInit _ => [⟨.a, 0, 16⟩, ⟨.b, 0, 16⟩, ⟨.tweak, 0, 8⟩, ⟨.iter, 0, 4⟩]
  | .mixStep => [⟨.sp, 0, spSize⟩, ⟨.a, 0, 16⟩, ⟨.b, 0, 16⟩, ⟨.iter, 0, 4⟩]
  | .mixRun => [⟨.sp, 0, spSize⟩, ⟨.a, 0, 16⟩, ⟨.b, 0, 16⟩, ⟨.iter, 0, 4⟩]
  | .compress => [⟨.rk, 0, 160⟩, ⟨.sp, 0, spSize⟩, ⟨.state, 64, 192⟩]
  | .kperm => [⟨.state, 0, 200⟩]
  | .hash _ => [⟨.rk, 0, 160⟩, ⟨.sp, 0, spSize⟩, ⟨.a, 0, 16⟩, ⟨.b, 0, 16⟩, ⟨.tweak, 0, 8⟩, ⟨.iter, 0, 4⟩,
      ⟨.state, 0, 200⟩]
  | .rd8 _ | .rd16 _ | .rd32 _ | .wr8 _ _ | .wr16 _ _ | .wr32 _ _ => []

/-- Byte i of a region is in the write set of a command (spec/44 R206). -/
def inWriteSet (cmd : Instr) (r : Region) (i : Nat) : Bool :=
  (writeSet cmd).any fun p => p.region == r && decide (p.lo ≤ i) && decide (i < p.hi)

/-- Some byte of an access hits the running command's write set (spec/44 R200, R206). -/
def State.hitsWriteSet (s : State) (r : Region) (off n : Nat) : Bool :=
  match s.running with
  | some cmd => (List.range n).any fun k => inWriteSet cmd r (off + k)
  | none => false

/-- A command that changes MIX_READY, SEL or VAR_L, with their values after it; none for any other command
(spec/44 R206). -/
def statusAfter (s : State) : Instr → Option (Bool × BitVec 2 × BitVec 8)
  | .mixInit v => some (true, s.sel, v)
  | .kperm => some (s.mixReady, selOf (kpermBody s).state, s.varL)
  | .hash v => some (true, selOf (hashBody v s).state, v)
  | .nop | .keyexp | .enc10 | .enc1 | .spInit | .mixStep | .mixRun | .compress => none
  | .rd8 _ | .rd16 _ | .rd32 _ | .wr8 _ _ | .wr16 _ _ | .wr32 _ _ => none

/-- What a read of STATUS answers, and how many free values it draws: while a command that changes MIX_READY, SEL or
VAR_L runs, each of the three is its value before or its value after (spec/44 R206, R209, log 10). -/
def State.readStatus (s : State) : Word × Nat :=
  match s.running.bind (statusAfter s) with
  | none => (s.statusWord, 0)
  | some (mixReady, sel, varL) =>
    let p := Config.statusPick s.draws
    (statusOf s.busy s.done s.err s.ecode (if p.getLsbD 0 then mixReady else s.mixReady)
      (if p.getLsbD 1 then sel else s.sel) (if p.getLsbD 2 then varL else s.varL), 1)

/-- `RegValue(r)` of spec/44 R209, and how many free values it draws. CMD reads 0 (R208). -/
def State.regValue (s : State) : Region → Word × Nat
  | .status => s.readStatus
  | .ctrl => (s.ctrlWord, 0)
  | .iter => (s.iter.setWidth 32, 0)
  | .msglen => (s.msglen, 0)
  | .id => (idValue, 0)
  | .cmd => (0, 0)
  | .sp | .state | .nonce | .tweak | .key | .blk | .rkey | .a | .b | .rk => (0, 0)

/-- A read that answers OK with a value, having drawn n free values. -/
def State.answerRead (s : State) (v : Word) (n : Nat) : State := { s.answer .ok (some v) with draws := s.draws + n }

/-- `HostRead(s, addr)` of spec/44 R200. -/
def State.hostRead (s : State) (z : Size) (addr : Nat) : State :=
  if addr % z.bytes ≠ 0 then s.raiseBus .busAccess true
  else
    match regionOf addr with
    | none => s.raiseBus .busUnmapped true
    | some r =>
      if r.cls = .wordOnly ∧ z ≠ .four then s.raiseBus .busAccess true
      else if r.region = .cmd then s.answerRead 0 0
      else if s.hitsWriteSet r.region (addr - r.start) z.bytes then s.answerRead (z.lanes (Config.busyRead s.draws)) 1
      else if r.cls = .wordOnly then s.answerRead (s.regValue r.region).1 (s.regValue r.region).2
      else s.answerRead (s.regionBytes r.region (addr - r.start) z.bytes) 0

/-- `HostWrite(s, addr, wdata)` of spec/44 R201. -/
def State.hostWrite (s : State) (z : Size) (addr : Nat) (data : Word) : State :=
  if addr % z.bytes ≠ 0 then s.raiseBus .busAccess false
  else
    match regionOf addr with
    | none => s.raiseBus .busUnmapped false
    | some r =>
      if r.cls = .wordOnly ∧ z ≠ .four then s.raiseBus .busAccess false
      else if r.access = .ro then s.raiseBus .busReadonly false
      else if r.region = .cmd then (s.issueCommand data).answer .ok none
      else if r.region = .status then (s.statusWrite data).answer .ok none
      else if r.region = .ctrl then (s.ctrlWrite data).answer .ok none
      else if s.busy then s.raiseBus .busBusy false
      else if r.region = .msglen then { s with msglen := data }.answer .ok none
      else (s.setRegionBytes r.region (addr - r.start) data z.bytes).answer .ok none

/-- RD8 (spec/44 R200). -/
def execRd8 (addr : WinAddr) (s : State) : Host.Outcome State Fault Refusal := .next (s.hostRead .one addr.toNat)

/-- RD16 (spec/44 R200). -/
def execRd16 (addr : WinAddr) (s : State) : Host.Outcome State Fault Refusal := .next (s.hostRead .two addr.toNat)

/-- RD32 (spec/44 R200). -/
def execRd32 (addr : WinAddr) (s : State) : Host.Outcome State Fault Refusal := .next (s.hostRead .four addr.toNat)

/-- WR8 (spec/44 R201). -/
def execWr8 (addr : WinAddr) (data : Word) (s : State) : Host.Outcome State Fault Refusal :=
  .next (s.hostWrite .one addr.toNat data)

/-- WR16 (spec/44 R201). -/
def execWr16 (addr : WinAddr) (data : Word) (s : State) : Host.Outcome State Fault Refusal :=
  .next (s.hostWrite .two addr.toNat data)

/-- WR32 (spec/44 R201). -/
def execWr32 (addr : WinAddr) (data : Word) (s : State) : Host.Outcome State Fault Refusal :=
  .next (s.hostWrite .four addr.toNat data)

end Sys2Proof.Machine
end

