-- ==== Sys2Proof/Machine/Dispatch.lean ====
section
/-! DEFINITION. The dispatch: one arm per instruction. A command's meaning is its completion step (spec/20 R63), a bus
transaction's the transaction (spec/44). -/

namespace Sys2Proof.Machine

def exec (i : Instr) (s : State) : Host.Outcome State Fault Refusal :=
  match i with
  | .nop => Sys2Proof.Machine.execNop s
  | .keyexp => Sys2Proof.Machine.execKeyexp s
  | .enc10 => Sys2Proof.Machine.execEnc10 s
  | .enc1 => Sys2Proof.Machine.execEnc1 s
  | .spInit => Sys2Proof.Machine.execSpInit s
  | .mixInit v => Sys2Proof.Machine.execMixInit v s
  | .mixStep => Sys2Proof.Machine.execMixStep s
  | .mixRun => Sys2Proof.Machine.execMixRun s
  | .compress => Sys2Proof.Machine.execCompress s
  | .kperm => Sys2Proof.Machine.execKperm s
  | .hash v => Sys2Proof.Machine.execHash v s
  | .rd8 addr => Sys2Proof.Machine.execRd8 addr s
  | .rd16 addr => Sys2Proof.Machine.execRd16 addr s
  | .rd32 addr => Sys2Proof.Machine.execRd32 addr s
  | .wr8 addr data => Sys2Proof.Machine.execWr8 addr data s
  | .wr16 addr data => Sys2Proof.Machine.execWr16 addr data s
  | .wr32 addr data => Sys2Proof.Machine.execWr32 addr data s

end Sys2Proof.Machine
end

