-- ==== Sys2Proof/Machine/Step.lean ====
section
/-! DEFINITION. One step of the machine (spec/10 R20, spec/20 R63): the next event is fetched and, where it is an
instruction, executed. -/

namespace Sys2Proof.Machine

/-- What the machine does with what it fetched. -/
def perform : Fetched → Host.Outcome State Fault Refusal
  | .run i s => exec i s
  | .now s => .next s
  | .stop f => .fault f

/-- One step. -/
def step (s : State) : Host.Outcome State Fault Refusal := perform (fetch s)

/-- The state with an opcode-table word placed where `step` fetches its next instruction (log 8): a command word in
PEND with BUSY = 1 and the core sequencer's turn next, or a host transaction as the next event. -/
def State.withFetchWord (s : State) (nbits w : Nat) : State := s.placeWord nbits w

end Sys2Proof.Machine
end

