-- ==== Sys2Proof/Safety.lean ====
section
/-! DEFINITION. What counts as a sound state and a safe step. -/

namespace Sys2Proof.Machine

/-- The relations between the fields of the state that every run keeps. -/
structure State.Inv (s : State) : Prop where
  /-- SP keeps its canonical form (log 2). -/
  spWf : Memory.wf s.sp = true
  /-- A command is pending exactly while BUSY = 1 (spec/10 R34, R35). -/
  busyPend : s.busy = s.pend.isSome
  /-- The pending word passes every check of its issue but the one on BUSY, still: the host cannot undo what was
  checked while the command waits (spec/44 R205, R207, spec/60 R235). -/
  pendIssued : ∀ w, s.pend = some w → issueError { s with busy := false } w = none
  /-- DONE is clear while a command runs (spec/10 R35). -/
  busyNotDone : s.busy = true → s.done = false
  /-- ITER never exceeds 2^19 (spec/10 R32). -/
  iterBound : s.iter.toNat ≤ mixIterations
  /-- ECODE is 0 exactly while ERR = 0 (spec/10 R35). -/
  errCode : s.err = false ↔ s.ecode = .none
  /-- The Keccak request is held only by a KPERM or HASH whose answer does not come (spec/43 R183, spec/60 R248). -/
  keccakHeld : s.kReq = true →
    s.keccakAnswers = false ∧ (s.running = some .kperm ∨ ∃ v, s.running = some (.hash v))

/-- The next step goes on: it is no fault and no refusal. -/
def State.GoesOn (s : State) : Prop := ∃ t, step s = .next t

end Sys2Proof.Machine
end

