-- ==== Sys2Proof/Certificates/Slice0/Obligations.lean ====
section
/-! DEFINITION. The statements for the provers. Each docstring names the rules of spec/ the statement is about. A
transaction is written through its size (`readOf`, `writeOf`), so a statement about it covers the byte, half-word and
word form. -/

namespace Sys2Proof.Claims

open Sys2Proof Sys2Proof.Machine

/-- The read transaction of a size: RD8, RD16 or RD32. -/
def readOf : Size → WinAddr → Instr
  | .one, addr => .rd8 addr
  | .two, addr => .rd16 addr
  | .four, addr => .rd32 addr

/-- The write transaction of a size: WR8, WR16 or WR32. -/
def writeOf : Size → WinAddr → Word → Instr
  | .one, addr, data => .wr8 addr data
  | .two, addr, data => .wr16 addr data
  | .four, addr, data => .wr32 addr data

/-- The state after an error e was recorded, the first one keeping its code (spec/60 R232). -/
def withError (s : State) (e : ErrorCode) : State :=
  { s with err := true, ecode := if s.err then s.ecode else e }

/-- The state with the bus answer of the transaction just done. -/
def replied (s : State) (r : Resp) (d : Option Word) : State := { s with reply := some { resp := r, rdata := d } }

/-- The state with the flags every completion step leaves (spec/20 R63, spec/44 R205, spec/43 R183). -/
def completed (s : State) : State := { s with busy := false, done := true, pend := none, kReq := false }

/-- The table of write sets of spec/44 R206, written out here again and not taken from the model's own: byte i of
region r is written by the command. -/
def writtenByte (cmd : Instr) (r : Region) (i : Nat) : Bool :=
  match cmd with
  | .nop => false
  | .keyexp => r == .rk
  | .enc10 | .enc1 => r == .blk
  | .spInit => r == .rk || r == .sp
  | .mixInit _ => r == .a || r == .b || r == .tweak || r == .iter
  | .mixStep | .mixRun => r == .sp || r == .a || r == .b || r == .iter
  | .compress => r == .rk || r == .sp || (r == .state && decide (64 ≤ i) && decide (i < 192))
  | .kperm => r == .state
  | .hash _ => r == .rk || r == .sp || r == .a || r == .b || r == .tweak || r == .iter || r == .state
  | .rd8 _ | .rd16 _ | .rd32 _ | .wr8 _ _ | .wr16 _ _ | .wr32 _ _ => false

/-- Byte i of region r lies in the write set of the running command, if there is one (spec/44 R206). -/
def byteBusy (s : State) (r : Region) (i : Nat) : Bool :=
  match s.running with
  | some cmd => writtenByte cmd r i
  | none => false

/-- The address map of spec/20 R61 in numbers, written out here again: start, length, region, class, access. -/
def windowMap : List RegionRow :=
  [⟨0x000000, 2097152, .sp, .byteArray, .rw⟩, ⟨0x200000, 200, .state, .byteArray, .rw⟩,
   ⟨0x200100, 4, .cmd, .wordOnly, .wo⟩, ⟨0x200104, 4, .status, .wordOnly, .rwW1c⟩,
   ⟨0x200108, 4, .ctrl, .wordOnly, .rw⟩, ⟨0x20010C, 4, .iter, .wordOnly, .ro⟩,
   ⟨0x200110, 4, .msglen, .wordOnly, .rw⟩, ⟨0x200114, 4, .id, .wordOnly, .ro⟩,
   ⟨0x200118, 8, .nonce, .byteArray, .rw⟩, ⟨0x200120, 8, .tweak, .byteArray, .ro⟩,
   ⟨0x200140, 32, .key, .byteArray, .rw⟩, ⟨0x200160, 16, .blk, .byteArray, .rw⟩,
   ⟨0x200170, 16, .rkey, .byteArray, .rw⟩, ⟨0x200180, 16, .a, .byteArray, .ro⟩,
   ⟨0x200190, 16, .b, .byteArray, .ro⟩, ⟨0x200200, 160, .rk, .byteArray, .ro⟩]

/-- The command needs the Keccak unit (spec/43 R182, R184). -/
def usesKeccak : Instr → Bool
  | .kperm | .hash _ => true
  | .nop | .keyexp | .enc10 | .enc1 | .spInit | .mixInit _ | .mixStep | .mixRun | .compress => false
  | .rd8 _ | .rd16 _ | .rd32 _ | .wr8 _ _ | .wr16 _ _ | .wr32 _ _ => false

/-- The command writes the round key file (spec/10 R23). -/
def writesRk : Instr → Bool
  | .keyexp | .spInit | .compress | .hash _ => true
  | .nop | .enc10 | .enc1 | .mixInit _ | .mixStep | .mixRun | .kperm => false
  | .rd8 _ | .rd16 _ | .rd32 _ | .wr8 _ _ | .wr16 _ _ | .wr32 _ _ => false

/-- The command writes the scratchpad (spec/10 R22). -/
def writesSp : Instr → Bool
  | .spInit | .mixStep | .mixRun | .compress | .hash _ => true
  | .nop | .keyexp | .enc10 | .enc1 | .mixInit _ | .kperm => false
  | .rd8 _ | .rd16 _ | .rd32 _ | .wr8 _ _ | .wr16 _ _ | .wr32 _ _ => false

/-- The command writes STATE (spec/10 R21). -/
def writesState : Instr → Bool
  | .compress | .kperm | .hash _ => true
  | .nop | .keyexp | .enc10 | .enc1 | .spInit | .mixInit _ | .mixStep | .mixRun => false
  | .rd8 _ | .rd16 _ | .rd32 _ | .wr8 _ _ | .wr16 _ _ | .wr32 _ _ => false

/-- The command writes A, B and ITER (spec/10 R27, R32). -/
def writesMixer : Instr → Bool
  | .mixInit _ | .mixStep | .mixRun | .hash _ => true
  | .nop | .keyexp | .enc10 | .enc1 | .spInit | .compress | .kperm => false
  | .rd8 _ | .rd16 _ | .rd32 _ | .wr8 _ _ | .wr16 _ _ | .wr32 _ _ => false

/-- The command latches VAR_L, TWEAK and MIX_READY (spec/10 R29 to R31). -/
def latchesVariant : Instr → Bool
  | .mixInit _ | .hash _ => true
  | .nop | .keyexp | .enc10 | .enc1 | .spInit | .mixStep | .mixRun | .compress | .kperm => false
  | .rd8 _ | .rd16 _ | .rd32 _ | .wr8 _ _ | .wr16 _ _ | .wr32 _ _ => false

/-- The command writes BLK (spec/10 R25). -/
def writesBlk : Instr → Bool
  | .enc10 | .enc1 => true
  | .nop | .keyexp | .spInit | .mixInit _ | .mixStep | .mixRun | .compress | .kperm | .hash _ => false
  | .rd8 _ | .rd16 _ | .rd32 _ | .wr8 _ _ | .wr16 _ _ | .wr32 _ _ => false

/-- Multiplication in GF(2^8) modulo x^8+x^4+x^3+x+1, over the low n bits of the second factor (spec/40 R111, R113). -/
def gfMulBits (x y : Byte) : Nat → Byte
  | 0 => 0
  | n + 1 => gfMulBits x y n ^^^ (if y.getLsbD n then Nat.iterate xtime n x else 0)

/-- Multiplication in GF(2^8) (spec/40 R111). -/
def gfMul (x y : Byte) : Byte := gfMulBits x y 8

/-- The byte of column c that stands in row k (taken modulo 4) after SubBytes and ShiftRows (spec/40 R111, R112). -/
def shifted (x : Block) (c k : Nat) : Byte := sbox (byteAt x (k % 4 + 4 * ((c + k % 4) % 4)))

/-- The cell of SP at byte address 128n + 16j. -/
def chunkCell (m : Memory) (n j : Nat) : Block := Memory.readCell m (128 * n + 16 * j)

/-- Byte 11 of a value XORed with its byte tweak (spec/42 R152, R155 step 5), where the variant is 1. -/
def tweaked11 (v : BitVec 8) (x : Block) : Block :=
  if v = 1 then setByte x 11 (byteAt x 11 ^^^ tweakXor (byteAt x 11)) else x

/-- The second lane of a value XORed with TWEAK (spec/42 R155 step 12), where the variant is 1. -/
def tweakedLane1 (v : BitVec 8) (tw : Lane) (x : Block) : Block :=
  if v = 1 then cell (lane0 x) (lane1 x ^^^ tw) else x

end Sys2Proof.Claims

open Sys2Proof Sys2Proof.Machine Sys2Proof.Claims

/-! ### Encodings (spec/30) -/

/-- Every well-formed instruction decodes from its encoding, as a word or tuple and byte by byte (spec/30 R81 to R83,
R86; the byte layout of a transaction is the model's, log 1). -/
def Obligations.DecodeEncodeRoundTrip : Prop :=
  ∀ i : Instr, i.wellFormed = true → decode (encode i) = .ok i ∧ decodeBytes (encode i).bytes = .ok i

/-- A command word decodes exactly where it selects a row of the opcode map, to that row's instruction, with VAR in
bits [15:8] (spec/30 R83, R84). -/
def Obligations.CommandDecodesByOpcodeMap : Prop :=
  ∀ w : Word,
    (∀ i, decodeCommand w = .ok i → ∃ r ∈ commandRows, r.mnemonic = i.mnemonic ∧ r.selects w = true) ∧
    (∀ r ∈ commandRows, r.selects w = true → ∃ i, decodeCommand w = .ok i ∧ i.mnemonic = r.mnemonic) ∧
    (∀ v, decodeCommand w = .ok (.mixInit v) ∨ decodeCommand w = .ok (.hash v) → v = w.extractLsb' 8 8)

/-- A command word has one meaning: what decodes from it encodes to it again (spec/30 R83). -/
def Obligations.DecodedCommandEncodesToItsWord : Prop :=
  ∀ (w : Word) (i : Instr), decodeCommand w = .ok i → encode i = .command w

/-- The six transaction codes, and the two reserved ones, which decode to nothing; a write keeps bits [8s-1:0] of
WDATA (spec/30 R86). -/
def Obligations.TransactionCodesSelectTransactions : Prop :=
  ∀ (addr : WinAddr) (d : Word),
    decodeTxn ⟨0b000, addr, d⟩ = .ok (.rd8 addr) ∧ decodeTxn ⟨0b001, addr, d⟩ = .ok (.rd16 addr) ∧
    decodeTxn ⟨0b010, addr, d⟩ = .ok (.rd32 addr) ∧
    decodeTxn ⟨0b100, addr, d⟩ = .ok (.wr8 addr ((d.extractLsb' 0 8).setWidth 32)) ∧
    decodeTxn ⟨0b101, addr, d⟩ = .ok (.wr16 addr ((d.extractLsb' 0 16).setWidth 32)) ∧
    decodeTxn ⟨0b110, addr, d⟩ = .ok (.wr32 addr d) ∧
    decodeTxn ⟨0b011, addr, d⟩ = .error .reservedSize ∧ decodeTxn ⟨0b111, addr, d⟩ = .error .reservedSize

/-- Words written out from the encodings of spec/30 decode to the instructions they stand for. -/
def Obligations.WrittenOutWordsDecode : Prop :=
  decodeBytes [0x01, 0x00, 0x00, 0x00] = .ok .keyexp ∧ decodeBytes [0x20, 0xFF, 0x00, 0x00] = .ok (.mixInit 255) ∧
  decodeBytes [0x80, 0x02, 0x00, 0x00] = .ok (.hash 2) ∧ decodeBytes [0x01, 0x01, 0x00, 0x00] = .error .illegalCommand ∧
  decodeBytes [0x06, 0x00, 0x01, 0x20, 0x22, 0x00, 0x00, 0x00] = .ok (.wr32 0x200100 0x22)

/-! ### The step (spec/10 R20, spec/20 R63) -/

/-- The host's next transaction, where it decodes to an instruction, is executed, and the event is taken off the
inputs (spec/10 R20, spec/30 R89, log 8). -/
def Obligations.StepPerformsHostTransaction : Prop :=
  ∀ (s : State) (t : Txn) (rest : List Event) (i : Instr),
    s.inputs = .host t :: rest → decodeTxn t = .ok i → step s = exec i { s with inputs := rest }

/-- The core sequencer's turn executes the command in PEND, and with no input left it takes its turn by itself
(spec/20 R63, spec/70 R273, log 8). -/
def Obligations.StepCompletesPendingCommand : Prop :=
  ∀ (s : State) (rest : List Event) (w : Word) (i : Instr),
    s.inputs = .core :: rest ∨ (s.inputs = [] ∧ rest = []) → s.busy = true → s.pend = some w →
    decodeCommand w = .ok i → step s = exec i { s with inputs := rest }

/-- A transaction of reserved size answers ERR, a read with RDATA = 0, and records BUS_ACCESS, whatever its address
(spec/30 R86, spec/60 R234 check 1). -/
def Obligations.ReservedSizeRaisesBusAccess : Prop :=
  ∀ (s : State) (t : Txn) (rest : List Event),
    s.inputs = .host t :: rest →
    (t.tc = 0b011 → step s = .next (replied (withError { s with inputs := rest } .busAccess) .err (some 0))) ∧
    (t.tc = 0b111 → step s = .next (replied (withError { s with inputs := rest } .busAccess) .err none))

/-- While BUSY = 0 the core sequencer does nothing (spec/10 R20, spec/60 R247). -/
def Obligations.IdleCoreChangesNothing : Prop :=
  ∀ (s : State), s.busy = false →
    (s.inputs = [] → step s = .next s) ∧
    (∀ rest, s.inputs = .core :: rest → step s = .next { s with inputs := rest })

/-- The control state right after reset (spec/10 R42). -/
def Obligations.ResetStateHoldsSpecValues : Prop :=
  State.reset.busy = false ∧ State.reset.done = false ∧ State.reset.err = false ∧ State.reset.ecode.code = 0 ∧
  State.reset.mixReady = false ∧ State.reset.varL = 0 ∧ State.reset.iter = 0 ∧ State.reset.ieDone = false ∧
  State.reset.ieErr = false ∧ State.reset.msglen = 0 ∧ State.reset.pend = none ∧ idValue = 0x434E0007 ∧
  State.reset.irq = false ∧ State.reset.kReq = false

/-- Asserting reset at any time, a command running or not, leaves the control state of spec/10 R42; the running
command is abandoned (spec/70 R260, R261). The data storage holds any value, in canonical form. -/
def Obligations.ResetInputRestoresControlState : Prop :=
  ∀ (s : State) (rest : List Event), s.inputs = .rst :: rest →
    ∃ t, step s = .next t ∧ t.busy = false ∧ t.done = false ∧ t.err = false ∧ t.ecode = .none ∧ t.mixReady = false ∧
      t.varL = 0 ∧ t.iter = 0 ∧ t.ieDone = false ∧ t.ieErr = false ∧ t.msglen = 0 ∧ t.pend = none ∧ t.kReq = false ∧
      t.irq = false ∧ t.keccakAnswers = s.keccakAnswers ∧ t.inputs = rest ∧ Memory.wf t.sp = true

/-! ### Invariants -/

/-- The state after reset meets the invariant. -/
def Obligations.ResetMeetsInvariant : Prop := State.reset.Inv

/-- Every step keeps the invariant: SP in canonical form, BUSY exactly with a pending command, that command still
passing the checks of its issue, ITER at most 2^19, ECODE 0 exactly with ERR = 0 (spec/10 R32 to R35,
spec/44 R205, R207). -/
def Obligations.StepKeepsInvariant : Prop := ∀ s t : State, s.Inv → step s = .next t → t.Inv

/-- From every state that meets the invariant the machine goes on. The spec's part: no error of a transaction stops the
block and a completion step never raises (spec/60 R230, R236). The model's part: that a Keccak hang, which spec/60 R248
calls stuck, goes on by a next state that waits and is no stop is the DESIGN CHOICE of log 5, and that an empty list of
inputs gives a step, the core's turn, is the choice of log 8. -/
def Obligations.InvariantStateGoesOn : Prop := ∀ s : State, s.Inv → s.GoesOn

/-- MIX_READY rises only by the completion of MIX_INIT or HASH, and falls only by reset (spec/10 R31). -/
def Obligations.MixReadyRisesByMixInitOrHashAndFallsByReset : Prop :=
  ∀ s t : State, step s = .next t →
    (s.mixReady = false → t.mixReady = true → ∃ v, s.running = some (.mixInit v) ∨ s.running = some (.hash v)) ∧
    (s.mixReady = true → t.mixReady = false → ∃ rest, s.inputs = .rst :: rest)

/-! ### Errors (spec/60) -/

/-- The bus errors of a read, in their order of priority (spec/60 R234 checks 2 to 4): misaligned, unmapped, wrong
size. Each answers ERR with RDATA = 0, records its code unless one is recorded already, and changes nothing else. -/
def Obligations.ReadErrorsInPriorityOrder : Prop :=
  ∀ (s : State) (z : Size) (addr : WinAddr),
    (addr.toNat % z.bytes ≠ 0 →
      exec (readOf z addr) s = .next (replied (withError s .busAccess) .err (some 0))) ∧
    (addr.toNat % z.bytes = 0 → regionOf addr.toNat = none →
      exec (readOf z addr) s = .next (replied (withError s .busUnmapped) .err (some 0))) ∧
    (addr.toNat % z.bytes = 0 → ∀ r, regionOf addr.toNat = some r → r.cls = .wordOnly → z ≠ .four →
      exec (readOf z addr) s = .next (replied (withError s .busAccess) .err (some 0)))

/-- The bus errors of a write, in their order of priority (spec/60 R234 checks 2 to 5 and 7): misaligned, unmapped,
wrong size, read-only, busy. -/
def Obligations.WriteErrorsInPriorityOrder : Prop :=
  ∀ (s : State) (z : Size) (addr : WinAddr) (d : Word),
    (addr.toNat % z.bytes ≠ 0 →
      exec (writeOf z addr d) s = .next (replied (withError s .busAccess) .err none)) ∧
    (addr.toNat % z.bytes = 0 → regionOf addr.toNat = none →
      exec (writeOf z addr d) s = .next (replied (withError s .busUnmapped) .err none)) ∧
    (addr.toNat % z.bytes = 0 → ∀ r, regionOf addr.toNat = some r →
      (r.cls = .wordOnly → z ≠ .four →
        exec (writeOf z addr d) s = .next (replied (withError s .busAccess) .err none)) ∧
      ((r.cls = .byteArray ∨ z = .four) → r.access = .ro →
        exec (writeOf z addr d) s = .next (replied (withError s .busReadonly) .err none)) ∧
      ((r.cls = .byteArray ∨ z = .four) → r.access = .rw → r.region ≠ .ctrl → s.busy = true →
        exec (writeOf z addr d) s = .next (replied (withError s .busBusy) .err none)))

/-- A transaction that answers ERR records one error and has no other effect (spec/60 R230, R232, R233). -/
def Obligations.ErrAnswerHasNoOtherEffect : Prop :=
  ∀ (s t : State) (i : Instr) (d : Option Word), i.isCommand = false → exec i s = .next t →
    t.reply = some { resp := .err, rdata := d } →
    ∃ e, e ≠ ErrorCode.none ∧ t = replied (withError s e) .err d

/-- Issuing a command: the checks of spec/60 R235 in order, each answering OK on the bus and changing only ERR and
ECODE; a word that passes them all is accepted (spec/44 R205). -/
def Obligations.CommandIssueChecksInOrder : Prop :=
  ∀ (s : State) (w : Word),
    (s.busy = true → exec (.wr32 0x200100 w) s = .next (replied (withError s .cmdBusy) .ok none)) ∧
    (s.busy = false → ∀ e, decodeCommand w = .error e →
      exec (.wr32 0x200100 w) s = .next (replied (withError s .cmdIllegal) .ok none)) ∧
    (s.busy = false → ∀ i, decodeCommand w = .ok i →
      ((i = .mixStep ∧ (s.mixReady = false ∨ s.iter.toNat = 2 ^ 19)) ∨ (i = .mixRun ∧ s.mixReady = false) →
        exec (.wr32 0x200100 w) s = .next (replied (withError s .cmdSeq) .ok none)) ∧
      ((i = .mixInit 1 ∨ i = .hash 1) ∧ s.msglen.toNat < 43 →
        exec (.wr32 0x200100 w) s = .next (replied (withError s .cmdPrecond) .ok none)) ∧
      ((i = .mixStep → s.mixReady = true ∧ s.iter.toNat ≠ 2 ^ 19) → (i = .mixRun → s.mixReady = true) →
        (i = .mixInit 1 ∨ i = .hash 1 → 43 ≤ s.msglen.toNat) →
        exec (.wr32 0x200100 w) s =
          .next (replied { s with pend := some w, busy := true, done := false } .ok none)))

/-- A write of STATUS clears DONE where bit 1 is 1, and ERR with ECODE where bit 2 is 1, busy or not, and changes
nothing else (spec/44 R203). -/
def Obligations.StatusWriteClearsWhatIsWrittenOne : Prop :=
  ∀ (s : State) (w : Word),
    ∃ t, exec (.wr32 0x200104 w) s = .next t ∧
      t = { s with done := t.done, err := t.err, ecode := t.ecode, reply := some { resp := .ok, rdata := none } } ∧
      t.done = (s.done && !w.getLsbD 1) ∧ t.err = (s.err && !w.getLsbD 2) ∧
      (w.getLsbD 2 = true → t.ecode.code = 0) ∧ (w.getLsbD 2 = false → t.ecode = s.ecode)

/-- A write of CTRL sets both interrupt enables, busy or not, and irq follows at once (spec/44 R204, spec/60 R238). -/
def Obligations.CtrlWriteSetsEnablesAndIrqFollows : Prop :=
  ∀ (s : State) (w : Word),
    ∃ t, exec (.wr32 0x200108 w) s = .next t ∧
      t = { s with ieDone := w.getLsbD 0, ieErr := w.getLsbD 1, reply := some { resp := .ok, rdata := none } } ∧
      t.irq = ((s.done && w.getLsbD 0) || (s.err && w.getLsbD 1))

/-- Every completion step, of every command, clears BUSY and PEND and sets DONE, and with IE_DONE it raises irq
(spec/20 R63, spec/60 R238). KPERM and HASH complete where the Keccak unit answers. -/
def Obligations.CompletionSetsDoneAndRaisesIrq : Prop :=
  ∀ (s : State) (i : Instr), i.isCommand = true → (usesKeccak i = true → s.keccakAnswers = true) →
    ∃ t, exec i s = .next t ∧ t.busy = false ∧ t.pend = none ∧ t.done = true ∧ (s.ieDone = true → t.irq = true)

/-! ### Reads (spec/44 R200, R206, R208, R209) -/

/-- STATUS read while no command runs, field by field; the reserved bits read 0 (spec/10 R35, spec/44 R209). -/
def Obligations.StatusReadShowsEveryField : Prop :=
  ∀ s : State, s.busy = false →
    ∃ v : Word, exec (.rd32 0x200104) s = .next (replied s .ok (some v)) ∧
      v.getLsbD 0 = s.busy ∧ v.getLsbD 1 = s.done ∧ v.getLsbD 2 = s.err ∧ v.getLsbD 3 = false ∧
      v.extractLsb' 4 4 = s.ecode.code ∧ v.getLsbD 8 = s.mixReady ∧ v.extractLsb' 9 3 = 0 ∧
      v.extractLsb' 12 2 = (byteAt s.state 0).extractLsb' 0 2 ∧ v.extractLsb' 14 10 = 0 ∧ v.extractLsb' 24 8 = s.varL

/-- STATUS read while a command runs: BUSY, DONE, ERR and ECODE are exact; MIX_READY, SEL and VAR_L are each the value
before, or, where the running command changes it, the value after (spec/44 R206). -/
def Obligations.StatusReadWhileBusy : Prop :=
  ∀ (s : State) (cmd : Instr), s.running = some cmd →
    ∃ (v : Word) (n : Nat),
      exec (.rd32 0x200104) s = .next { s with reply := some { resp := .ok, rdata := some v }, draws := n } ∧
      v.getLsbD 0 = true ∧ v.getLsbD 1 = s.done ∧ v.getLsbD 2 = s.err ∧ v.getLsbD 3 = false ∧
      v.extractLsb' 4 4 = s.ecode.code ∧ v.extractLsb' 9 3 = 0 ∧ v.extractLsb' 14 10 = 0 ∧
      (v.getLsbD 8 = s.mixReady ∨ (latchesVariant cmd = true ∧ v.getLsbD 8 = true)) ∧
      (v.extractLsb' 24 8 = s.varL ∨ ∃ w, (cmd = .mixInit w ∨ cmd = .hash w) ∧ v.extractLsb' 24 8 = w) ∧
      (v.extractLsb' 12 2 = s.sel ∨ (cmd = .kperm ∧ v.extractLsb' 12 2 = (kpermBody s).sel) ∨
        ∃ w, cmd = .hash w ∧ v.extractLsb' 12 2 = (hashBody w s).sel)

/-- CTRL, MSGLEN, ID and CMD read exactly, busy or not, and ITER wherever the running command, if there is one, does
not have it in its write set (spec/44 R206, R208, R209). -/
def Obligations.ControlRegistersReadBack : Prop :=
  ∀ s : State,
    (∃ v : Word, exec (.rd32 0x200108) s = .next (replied s .ok (some v)) ∧ v.getLsbD 0 = s.ieDone ∧
      v.getLsbD 1 = s.ieErr ∧ v.extractLsb' 2 30 = 0) ∧
    exec (.rd32 0x200110) s = .next (replied s .ok (some s.msglen)) ∧
    exec (.rd32 0x200114) s = .next (replied s .ok (some 0x434E0007)) ∧
    exec (.rd32 0x200100) s = .next (replied s .ok (some 0)) ∧
    (byteBusy s .iter 0 = false → ∃ v : Word, exec (.rd32 0x20010C) s = .next (replied s .ok (some v)) ∧
      v.extractLsb' 0 20 = s.iter ∧ v.extractLsb' 20 12 = 0)

/-- RD8, RD16 and RD32 of a byte-array region outside the running command's write set: the bytes at the address and
after it, lowest first, zero-extended, and no other change (spec/44 R200, spec/30 R87, spec/20 R60). -/
def Obligations.ReadReturnsRegionBytes : Prop :=
  ∀ (s : State) (z : Size) (addr : WinAddr) (r : RegionRow),
    addr.toNat % z.bytes = 0 → regionOf addr.toNat = some r → r.cls = .byteArray →
    (∀ k, k < z.bytes → byteBusy s r.region (addr.toNat - r.start + k) = false) →
    ∃ v : Word, exec (readOf z addr) s = .next (replied s .ok (some v)) ∧
      (∀ k, k < z.bytes → byteAt v k = s.regionByte r.region (addr.toNat - r.start + k)) ∧
      (∀ k, z.bytes ≤ k → byteAt v k = 0)

/-- A read that hits the running command's write set answers OK with some value that fits its size, and changes
nothing of the block (spec/44 R200, R206). Nothing constrains the value (log 7). -/
def Obligations.ReadOfWriteSetAnswersSomeValue : Prop :=
  ∀ (s : State) (z : Size) (addr : WinAddr) (r : RegionRow) (k : Nat),
    addr.toNat % z.bytes = 0 → regionOf addr.toNat = some r → (r.cls = .byteArray ∨ z = .four) →
    k < z.bytes → byteBusy s r.region (addr.toNat - r.start + k) = true →
    ∃ v : Word, v.toNat < 2 ^ (8 * z.bytes) ∧
      exec (readOf z addr) s =
        .next { s with reply := some { resp := .ok, rdata := some v }, draws := s.draws + 1 }

/-- No read has a side effect: it completes, and one that answers OK changes nothing of the block, whatever it reads
(spec/20 R60, spec/44 R200). The counter of drawn values is the model's own (log 7). -/
def Obligations.ReadsHaveNoSideEffect : Prop :=
  ∀ (s : State) (z : Size) (addr : WinAddr),
    ∃ t, exec (readOf z addr) s = .next t ∧
      ((∃ v, t = { s with reply := some { resp := .ok, rdata := some v }, draws := t.draws }) ∨
        ∃ e, t = replied (withError s e) .err (some 0))

/-- The address map: an address in the range of a row of spec/20 R61, given in numbers in `windowMap`, belongs to that
row alone, and an address in no range is unmapped (spec/20 R61, spec/44 R202). -/
def Obligations.AddressMapHasNoOverlap : Prop :=
  ∀ addr : Nat,
    (∀ r ∈ windowMap, r.start ≤ addr → addr < r.start + r.bytes → regionOf addr = some r) ∧
    ((∀ r ∈ windowMap, addr < r.start ∨ r.start + r.bytes ≤ addr) → regionOf addr = none)

/-! ### Writes (spec/44 R201, R207) -/

/-- WR8, WR16 and WR32 of a writable byte-array region while no command runs: the s bytes are stored, lowest first, and
every other byte of every region, every control register and every flag is unchanged (spec/44 R201,
spec/30 R87). -/
def Obligations.WriteStoresExactlyItsBytes : Prop :=
  ∀ (s : State) (z : Size) (addr : WinAddr) (d : Word) (r : RegionRow),
    Memory.wf s.sp = true → s.busy = false → addr.toNat % z.bytes = 0 → regionOf addr.toNat = some r →
    r.cls = .byteArray → r.access = .rw →
    ∃ t, exec (writeOf z addr d) s = .next t ∧
      t = { s with state := t.state, sp := t.sp, nonce := t.nonce, key := t.key, blk := t.blk, rkey := t.rkey,
                   reply := some { resp := .ok, rdata := none } } ∧
      (∀ k, k < z.bytes → t.regionByte r.region (addr.toNat - r.start + k) = byteAt d k) ∧
      (∀ q i, ¬ (q = r.region ∧ addr.toNat - r.start ≤ i ∧ i < addr.toNat - r.start + z.bytes) →
        t.regionByte q i = s.regionByte q i)

/-- WR32 of MSGLEN while no command runs (spec/44 R201, spec/10 R33). -/
def Obligations.MsglenWriteStoresTheWord : Prop :=
  ∀ (s : State) (d : Word), s.busy = false →
    exec (.wr32 0x200110 d) s = .next (replied { s with msglen := d } .ok none)

/-- While a command runs, no transaction changes anything the command reads or writes, nor the pending word: only
DONE, ERR, ECODE and CTRL may change (spec/20 R63, spec/44 R207). -/
def Obligations.BusyHostCannotDisturbCommand : Prop :=
  ∀ (s : State) (i : Instr), i.isCommand = false → s.busy = true →
    ∃ t, exec i s = .next t ∧
      t = { s with done := t.done, err := t.err, ecode := t.ecode, ieDone := t.ieDone, ieErr := t.ieErr,
                   reply := t.reply, draws := t.draws }

/-! ### AES engine (spec/40) -/

/-- The S-box is the multiplicative inverse (0 for 0) followed by the affine map (spec/40 R111). -/
def Obligations.SboxIsInverseThenAffineMap : Prop :=
  ∀ b : Byte, ∃ x : Byte, (b = 0 → x = 0) ∧ (b ≠ 0 → gfMul b x = 1) ∧
    sbox b = x ^^^ x.rotateLeft 1 ^^^ x.rotateLeft 2 ^^^ x.rotateLeft 3 ^^^ x.rotateLeft 4 ^^^ 0x63

/-- KEYEXP: RK holds the AES-256 key expansion of KEY, stopped after 40 words; nothing else changes but the completion
flags (spec/40 R119, R121). Word i is `wordAt rks i`; RCON[i/8] is 2^(i/8 - 1). -/
def Obligations.KeyexpExpandsKey : Prop :=
  ∀ s : State, ∃ rks : BitVec 1280,
    exec .keyexp s = .next (completed { s with rk := rks }) ∧
    (∀ i, i < 8 → wordAt rks i = wordAt s.key i) ∧
    (∀ i j, 8 ≤ i → i < 40 → j < 4 →
      byteAt (wordAt rks i) j = byteAt (wordAt rks (i - 8)) j ^^^
        (if i % 8 = 0 then sbox (byteAt (wordAt rks (i - 1)) ((j + 1) % 4)) ^^^
            (if j = 0 then BitVec.ofNat 8 (2 ^ (i / 8 - 1)) else 0)
         else if i % 8 = 4 then sbox (byteAt (wordAt rks (i - 1)) j)
         else byteAt (wordAt rks (i - 1)) j))

/-- ENC1: BLK becomes one AES round of BLK under RKEY, given byte by byte over GF(2^8); nothing else changes but the
completion flags (spec/40 R110 to R116, R118, R123). -/
def Obligations.Enc1IsOneAesRound : Prop :=
  ∀ s : State, ∃ out : Block,
    exec .enc1 s = .next (completed { s with blk := out }) ∧
    (∀ r c, r < 4 → c < 4 →
      byteAt out (r + 4 * c) = gfMul (shifted s.blk c r) 2 ^^^ gfMul (shifted s.blk c (r + 1)) 3 ^^^
        shifted s.blk c (r + 2) ^^^ shifted s.blk c (r + 3) ^^^ byteAt s.rkey (r + 4 * c))

/-- ENC10: BLK becomes ten rounds of BLK under RK[0] to RK[9] in order, with no whitening and no special last round;
nothing else changes but the completion flags (spec/40 R117, R122). -/
def Obligations.Enc10IsTenRoundsUnderRk : Prop :=
  ∀ s : State, ∃ x : Nat → Block, x 0 = s.blk ∧
    (∀ r, r < 10 → ∀ t : State, t.blk = x r → t.rkey = s.rk.extractLsb' (128 * r) 128 →
      exec .enc1 t = .next (completed { t with blk := x (r + 1) })) ∧
    exec .enc10 s = .next (completed { s with blk := x 10 })

/-! ### Scratchpad initializer (spec/41) -/

/-- SP_INIT: RK holds the init keys, sub-block j of chunk n holds sub-block j of the seed encrypted n + 1 times, and
nothing else changes but the completion flags (spec/41 R140, R141). The keys are those KEYEXP makes of STATE[0:32). -/
def Obligations.SpInitFillsEveryChunk : Prop :=
  ∀ s : State, Memory.wf s.sp = true →
    ∃ t, exec .spInit s = .next t ∧ t = completed { s with rk := t.rk, sp := t.sp } ∧
      exec .keyexp { s with key := s.state.extractLsb' 0 256 } =
        .next (completed { s with key := s.state.extractLsb' 0 256, rk := t.rk }) ∧
      (∀ n j, n < 2 ^ 14 → j < 8 →
        chunkCell t.sp n j = Nat.iterate (fun x => encryptRounds x t.rk) (n + 1) (blockFrom s.state (64 + 16 * j)))

/-- SP_INIT depends only on STATE[0:32) and STATE[64:192) (spec/41 R142). -/
def Obligations.SpInitDependsOnlyOnState : Prop :=
  ∀ s₁ s₂ : State, Memory.wf s₁.sp = true → Memory.wf s₂.sp = true →
    (∀ i, i < 32 ∨ (64 ≤ i ∧ i < 192) → byteAt s₁.state i = byteAt s₂.state i) →
    ∃ t₁ t₂, exec .spInit s₁ = .next t₁ ∧ exec .spInit s₂ = .next t₂ ∧ t₁.sp = t₂.sp ∧ t₁.rk = t₂.rk

/-! ### Mixer (spec/42) -/

/-- A scratchpad address is the low 24 bits of the value, bytes 0 to 2 little-endian, under the mask 0x1FFFF0, which is
bits [20:4] of the low lane shifted back (spec/20 R54). So it is a multiple of 16 below 2^21, and every cell is named
(spec/20 R55). -/
def Obligations.ScratchpadAddressesAreTheCells : Prop :=
  (∀ x : Block, spAddr x = x.toNat % 2 ^ 24 &&& 0x1FFFF0 ∧
    spAddr x = ((lane0 x).toNat / 2 ^ 4 % 2 ^ 17) * 2 ^ 4) ∧
  (∀ x : Block, spAddr x % 16 = 0 ∧ spAddr x < 2 ^ 21) ∧ (∀ n, n < 2 ^ 17 → ∃ x : Block, spAddr x = 16 * n)

/-- The byte tweak by bits 5, 4 and 0 (spec/42 R152). -/
def Obligations.ByteTweakTable : Prop :=
  ∀ t : Byte, tweakXor t =
    match t.getLsbD 5, t.getLsbD 4, t.getLsbD 0 with
    | false, false, false => 0x10
    | false, false, true => 0x00
    | false, true, false => 0x30
    | false, true, true => 0x00
    | true, false, false => 0x10
    | true, false, true => 0x10
    | true, true, false => 0x30
    | true, true, true => 0x10

/-- The product of the low lanes is exact, with its high half in lane 0 (spec/42 R153). -/
def Obligations.ProductIsExactHighFirst : Prop :=
  ∀ c d : Block,
    (lane0 (mulLanes c d)).toNat * 2 ^ 64 + (lane1 (mulLanes c d)).toNat = (lane0 c).toNat * (lane0 d).toNat

/-- Lane-wise addition wraps in each lane, with no carry between them (spec/42 R154). -/
def Obligations.LanesAddModulo64 : Prop :=
  ∀ x y : Block,
    (lane0 (laneAdd x y)).toNat = ((lane0 x).toNat + (lane0 y).toNat) % 2 ^ 64 ∧
    (lane1 (laneAdd x y)).toNat = ((lane1 x).toNat + (lane1 y).toNat) % 2 ^ 64

/-- MIX_INIT v: A, B and TWEAK byte by byte from STATE and NONCE, VAR_L = v, ITER = 0, MIX_READY = 1, and nothing else
changes but the completion flags (spec/42 R150, R151). -/
def Obligations.MixInitLoadsMixer : Prop :=
  ∀ (s : State) (v : BitVec 8),
    ∃ t, exec (.mixInit v) s = .next t ∧
      t = completed { s with a := t.a, b := t.b, tweak := t.tweak, varL := v, iter := 0, mixReady := true } ∧
      (∀ i, i < 16 → byteAt t.a i = byteAt s.state i ^^^ byteAt s.state (32 + i)) ∧
      (∀ i, i < 16 → byteAt t.b i = byteAt s.state (16 + i) ^^^ byteAt s.state (48 + i)) ∧
      (∀ i, i < 8 → byteAt t.tweak i = if v = 1 then byteAt s.state (192 + i) ^^^ byteAt s.nonce i else 0)

/-- MIX_STEP: one iteration. With c the AES round of the cell at Addr(A) under A, the first cell takes B XOR c (its
byte 11 tweaked under variant 1); d is read from the cell at Addr(c) after that, so it is the value just stored where
the two cells are one; the second cell takes A + Mul(c, d) (its second lane XORed with TWEAK under variant 1); A takes
that sum XOR d, B takes c, ITER counts, and nothing else changes but the completion flags (spec/42 R155, R156, R159). -/
def Obligations.MixStepRunsOneIteration : Prop :=
  ∀ s : State, Memory.wf s.sp = true →
    let c := aesRound (Memory.readCell s.sp (spAddr s.a)) s.a
    let x := tweaked11 s.varL (s.b ^^^ c)
    let d := if spAddr c = spAddr s.a then x else Memory.readCell s.sp (spAddr c)
    let sum := laneAdd s.a (mulLanes c d)
    ∃ t, exec .mixStep s = .next t ∧
      t = completed { s with sp := t.sp, a := sum ^^^ d, b := c, iter := s.iter + 1 } ∧
      Memory.readCell t.sp (spAddr c) = tweakedLane1 s.varL s.tweak sum ∧
      (spAddr c ≠ spAddr s.a → Memory.readCell t.sp (spAddr s.a) = x) ∧
      (∀ a, ¬ (spAddr c ≤ a ∧ a < spAddr c + 16) → ¬ (spAddr s.a ≤ a ∧ a < spAddr s.a + 16) →
        Memory.read t.sp a = Memory.read s.sp a)

/-- MIX_RUN: exactly the iterations that are missing to 2^19, and ITER ends at 2^19 (spec/42 R157). -/
def Obligations.MixRunFinishesTheLoop : Prop :=
  ∀ s : State, s.iter.toNat ≤ 2 ^ 19 →
    ∃ t, exec .mixRun s = .next t ∧ t.iter.toNat = 2 ^ 19 ∧
      t = completed (Nat.iterate (mixIteration (decide (s.varL = 1))) (2 ^ 19 - s.iter.toNat) s) ∧
      t = completed { s with sp := t.sp, a := t.a, b := t.b, iter := t.iter }

/-- A MIX_STEP before MIX_RUN is one of MIX_RUN's own iterations (spec/42 R157). -/
def Obligations.MixStepThenRunIsRun : Prop :=
  ∀ s : State, s.iter.toNat < 2 ^ 19 →
    ∃ t u, exec .mixStep s = .next t ∧ exec .mixRun t = .next u ∧ exec .mixRun s = .next u

/-- Every variant but 1 runs as variant 0, in MIX_STEP, MIX_RUN and HASH: only VAR_L differs
(spec/42 R158, spec/30 R85). -/
def Obligations.VariantsOtherThanOneRunAsZero : Prop :=
  ∀ (s : State) (v : BitVec 8), v ≠ 1 →
    (∃ t, exec .mixStep { s with varL := 0 } = .next t ∧
      exec .mixStep { s with varL := v } = .next { t with varL := v }) ∧
    (∃ t, exec .mixRun { s with varL := 0 } = .next t ∧
      exec .mixRun { s with varL := v } = .next { t with varL := v }) ∧
    (s.keccakAnswers = true → ∃ t, exec (.hash 0) s = .next t ∧ exec (.hash v) s = .next { t with varL := v })

/-- MIX_INIT gives the same before and after SP_INIT (spec/42 R151, spec/70 R269). -/
def Obligations.MixInitCommutesWithSpInit : Prop :=
  ∀ (s : State) (v : BitVec 8),
    ∃ t₁ t₂ u, exec .spInit s = .next t₁ ∧ exec (.mixInit v) t₁ = .next u ∧
      exec (.mixInit v) s = .next t₂ ∧ exec .spInit t₂ = .next u

/-! ### Compressor, KPERM, HASH, NOP (spec/43) -/

/-- COMPRESS: RK holds the keys of STATE[32:64); every cell takes the encryption of itself XOR the cell one chunk
before (the seed for chunk 0); STATE[64:192) takes the last chunk; nothing else changes but the completion flags
(spec/43 R180, R181). -/
def Obligations.CompressFoldsScratchpad : Prop :=
  ∀ s : State, Memory.wf s.sp = true →
    ∃ t, exec .compress s = .next t ∧ t = completed { s with rk := t.rk, sp := t.sp, state := t.state } ∧
      exec .keyexp { s with key := s.state.extractLsb' 256 256 } =
        .next (completed { s with key := s.state.extractLsb' 256 256, rk := t.rk }) ∧
      (∀ j, j < 8 →
        chunkCell t.sp 0 j = encryptRounds (chunkCell s.sp 0 j ^^^ blockFrom s.state (64 + 16 * j)) t.rk ∧
        (∀ n, n + 1 < 2 ^ 14 →
          chunkCell t.sp (n + 1) j = encryptRounds (chunkCell s.sp (n + 1) j ^^^ chunkCell t.sp n j) t.rk) ∧
        blockFrom t.state (64 + 16 * j) = chunkCell t.sp (2 ^ 14 - 1) j) ∧
      (∀ i, i < 64 ∨ 192 ≤ i → byteAt t.state i = byteAt s.state i)

/-- KPERM: STATE takes the Keccak unit's answer, and nothing else changes but the completion flags (spec/43 R182). -/
def Obligations.KpermReplacesState : Prop :=
  ∀ s : State, s.keccakAnswers = true →
    exec .kperm s = .next (completed { s with state := Config.keccakF s.state })

/-- HASH v is SP_INIT, MIX_INIT v, MIX_RUN, COMPRESS and KPERM one after the other (spec/43 R184). -/
def Obligations.HashIsItsFiveStages : Prop :=
  ∀ (s : State) (v : BitVec 8), s.keccakAnswers = true →
    ∃ s₁ s₂ s₃ s₄ t, exec .spInit s = .next s₁ ∧ exec (.mixInit v) s₁ = .next s₂ ∧ exec .mixRun s₂ = .next s₃ ∧
      exec .compress s₃ = .next s₄ ∧ exec .kperm s₄ = .next t ∧ exec (.hash v) s = .next t

/-- Arena reuse: what HASH leaves in STATE, SEL, SP, RK, A, B, TWEAK and ITER depends only on STATE before it, the
variant and, for variant 1, NONCE, not on anything earlier work left (spec/70 R271). -/
def Obligations.HashResultIgnoresEarlierWork : Prop :=
  ∀ (s₁ s₂ : State) (v : BitVec 8), Memory.wf s₁.sp = true → Memory.wf s₂.sp = true → s₁.keccakAnswers = true →
    s₂.keccakAnswers = true → s₁.state = s₂.state → (v = 1 → s₁.nonce = s₂.nonce) →
    ∃ t₁ t₂, exec (.hash v) s₁ = .next t₁ ∧ exec (.hash v) s₂ = .next t₂ ∧ t₁.state = t₂.state ∧ t₁.sel = t₂.sel ∧
      t₁.sp = t₂.sp ∧ t₁.rk = t₂.rk ∧ t₁.a = t₂.a ∧ t₁.b = t₂.b ∧ t₁.tweak = t₂.tweak ∧ t₁.iter = t₂.iter

/-- NOP changes nothing but the completion flags (spec/43 R185). -/
def Obligations.NopOnlyCompletes : Prop := ∀ s : State, exec .nop s = .next (completed s)

/-- What no command touches, and what only some commands write: the frame of all eleven (spec/10 R21 to R33, R43). -/
def Obligations.CommandsWriteOnlyTheirRegisters : Prop :=
  ∀ (s t : State) (i : Instr), i.isCommand = true → exec i s = .next t →
    t.key = s.key ∧ t.rkey = s.rkey ∧ t.nonce = s.nonce ∧ t.msglen = s.msglen ∧ t.err = s.err ∧ t.ecode = s.ecode ∧
    t.ieDone = s.ieDone ∧ t.ieErr = s.ieErr ∧ t.keccakAnswers = s.keccakAnswers ∧ t.reply = s.reply ∧
    t.draws = s.draws ∧ t.inputs = s.inputs ∧
    (writesRk i = false → t.rk = s.rk) ∧ (writesSp i = false → t.sp = s.sp) ∧
    (writesState i = false → t.state = s.state) ∧
    (writesMixer i = false → t.a = s.a ∧ t.b = s.b ∧ t.iter = s.iter) ∧
    (latchesVariant i = false → t.tweak = s.tweak ∧ t.varL = s.varL ∧ t.mixReady = s.mixReady) ∧
    (writesBlk i = false → t.blk = s.blk)

/-! ### Liveness and the Keccak hang (spec/70 R273, spec/60 R248) -/

/-- The core's turn completes the running command, for KPERM and HASH exactly where the Keccak unit answers
(spec/70 R273). -/
def Obligations.RunningCommandCompletes : Prop :=
  ∀ (s : State) (cmd : Instr) (rest : List Event), s.running = some cmd →
    s.inputs = .core :: rest ∨ (s.inputs = [] ∧ rest = []) →
    ∃ t, step s = .next t ∧ t.inputs = rest ∧
      (usesKeccak cmd = false ∨ s.keccakAnswers = true → t.busy = false ∧ t.done = true ∧ t.pend = none) ∧
      (usesKeccak cmd = true → s.keccakAnswers = false → t.busy = true ∧ t.pend = s.pend ∧ t.kReq = true)

/-- A KPERM or HASH whose Keccak unit never answers stays running: whatever the host does, BUSY, PEND, every data
register, MSGLEN, ITER, VAR_L and MIX_READY keep their values until reset (spec/60 R248; the hang as a next state is
log 5). -/
def Obligations.KeccakHangLastsUntilReset : Prop :=
  ∀ (s : State) (cmd : Instr), s.running = some cmd → usesKeccak cmd = true → s.keccakAnswers = false →
    (∀ rest, s.inputs ≠ .rst :: rest) →
    ∃ t, step s = .next t ∧ t.running = some cmd ∧ t.keccakAnswers = false ∧ t.busy = true ∧ t.pend = s.pend ∧
      t.state = s.state ∧ t.sp = s.sp ∧ t.rk = s.rk ∧ t.key = s.key ∧ t.blk = s.blk ∧ t.rkey = s.rkey ∧ t.a = s.a ∧
      t.b = s.b ∧ t.nonce = s.nonce ∧ t.tweak = s.tweak ∧ t.msglen = s.msglen ∧ t.iter = s.iter ∧ t.varL = s.varL ∧
      t.mixReady = s.mixReady

/-! ### The window and the write sets, register by register (spec/20 R61, spec/44 R206) -/

/-- RD8 of each byte-array region while no command runs, at its address in the map: byte i of SP, STATE, NONCE, TWEAK,
KEY, BLK, RKEY, A and B stands at its base + i, byte i of RK[k] at 0x200200 + 16k + i (spec/20 R61, spec/44 R200). -/
def Obligations.WindowBytesAreTheRegisters : Prop :=
  ∀ s : State, s.busy = false →
    let reads (addr : Nat) (v : Byte) : Prop :=
      exec (.rd8 (BitVec.ofNat 22 addr)) s = .next (replied s .ok (some (v.setWidth 32)))
    (∀ i, i < 2 ^ 21 → reads i (Memory.read s.sp i)) ∧
    (∀ i, i < 200 → reads (0x200000 + i) (s.state.extractLsb' (8 * i) 8)) ∧
    (∀ i, i < 8 → reads (0x200118 + i) (s.nonce.extractLsb' (8 * i) 8) ∧
      reads (0x200120 + i) (s.tweak.extractLsb' (8 * i) 8)) ∧
    (∀ i, i < 32 → reads (0x200140 + i) (s.key.extractLsb' (8 * i) 8)) ∧
    (∀ i, i < 16 → reads (0x200160 + i) (s.blk.extractLsb' (8 * i) 8) ∧
      reads (0x200170 + i) (s.rkey.extractLsb' (8 * i) 8) ∧ reads (0x200180 + i) (s.a.extractLsb' (8 * i) 8) ∧
      reads (0x200190 + i) (s.b.extractLsb' (8 * i) 8)) ∧
    (∀ k i, k < 10 → i < 16 → reads (0x200200 + 16 * k + i) (s.rk.extractLsb' (128 * k + 8 * i) 8))

/-- The write sets of spec/44 R206 hold what the commands write: a byte of a byte-array region that the table does not
give to a command is the same after its completion step, and so is ITER where the table does not give it. Of the other
word-only regions it says nothing (their `regionByte` is 0): CTRL and MSGLEN stand in CommandsWriteOnlyTheirRegisters, and
STATUS changes at every completion (BUSY, DONE). -/
def Obligations.CompletionWritesOnlyItsWriteSet : Prop :=
  ∀ (s t : State) (cmd : Instr), cmd.isCommand = true → exec cmd s = .next t →
    (∀ r i, writtenByte cmd r i = false → t.regionByte r i = s.regionByte r i) ∧
    (writtenByte cmd .iter 0 = false → t.iter = s.iter)
end

