-- ==== Sys2Proof/Laws/Bytes.lean ====
section
/-! SUPPORT. The laws of byte arrays: what a packed array, a slice, a replaced byte and a pair of lanes read as. -/

namespace Sys2Proof

variable {w c : Nat}

theorem getLsbD_byteAt (x : BitVec w) (i j : Nat) :
    (byteAt x i).getLsbD j = (decide (j < 8) && x.getLsbD (8 * i + j)) := by
  simp [byteAt]

theorem getLsbD_blockFrom (x : BitVec w) (off j : Nat) :
    (blockFrom x off).getLsbD j = (decide (j < 128) && x.getLsbD (8 * off + j)) := by
  simp [blockFrom]

/-- The bits of a packed array. -/
theorem getLsbD_pack (f : Nat → BitVec c) (n j : Nat) (hc : 0 < c) :
    (pack w f n).getLsbD j = (decide (j < w) && decide (j < c * n) && (f (j / c)).getLsbD (j % c)) := by
  induction n with
  | zero => simp [pack]
  | succ n ih =>
    simp only [pack, BitVec.getLsbD_or, ih, BitVec.getLsbD_shiftLeft, BitVec.getLsbD_setWidth]
    by_cases hw : j < w
    · by_cases h1 : j < c * n
      · have h2 : j < c * (n + 1) := by rw [Nat.mul_succ]; omega
        simp [hw, h1, h2]
      · by_cases h2 : j < c * (n + 1)
        · rw [Nat.mul_succ] at h2
          have hd : j / c = n := by
            rw [Nat.div_eq_iff hc]; constructor
            · rw [Nat.mul_comm]; omega
            · rw [Nat.mul_comm n c]; omega
          have hm : j % c = j - c * n := by rw [Nat.mod_def, hd]
          have h3 : j < c * (n + 1) := by rw [Nat.mul_succ]; omega
          have h4 : j - c * n < w := by omega
          simp [hw, h1, h3, h4, hd, hm]
        · have h3 : c ≤ j - c * n := by rw [Nat.mul_succ] at h2; omega
          have := (f n).getLsbD_of_ge (j - c * n) h3
          simp [hw, h1, h2, this]
    · simp [hw]

/-- Chunk i of a packed array is what was packed there. -/
theorem extractLsb'_pack (f : Nat → BitVec c) (n i : Nat) (hc : 0 < c) (hw : c * n ≤ w) (hi : i < n) :
    (pack w f n).extractLsb' (c * i) c = f i := by
  have hci : c * i + c ≤ c * n := by rw [← Nat.mul_succ]; exact Nat.mul_le_mul_left c hi
  apply BitVec.eq_of_getLsbD_eq
  intro j hj
  have h1 : c * i + j < c * n := by omega
  have h2 : c * i + j < w := by omega
  have h3 : (c * i + j) / c = i := by
    rw [Nat.mul_add_div hc, Nat.div_eq_of_lt hj, Nat.add_zero]
  have h4 : (c * i + j) % c = j := by rw [Nat.mul_add_mod, Nat.mod_eq_of_lt hj]
  simp only [BitVec.getLsbD_extractLsb', getLsbD_pack f n _ hc, hj, h1, h2, h3, h4, decide_true, Bool.true_and]

/-- Byte i of an array packed from bytes. -/
theorem byteAt_pack (f : Nat → Byte) (n i : Nat) (hw : 8 * n ≤ w) (hi : i < n) :
    byteAt (pack w f n) i = f i := extractLsb'_pack f n i (by omega) hw hi

/-- Two arrays of n bytes with the same bytes are equal. -/
theorem eq_of_byteAt {x y : BitVec w} (n : Nat) (hw : w = 8 * n) (h : ∀ i, i < n → byteAt x i = byteAt y i) :
    x = y := by
  apply BitVec.eq_of_getLsbD_eq
  intro j hj
  have hb := congrArg (fun z => z.getLsbD (j % 8)) (h (j / 8) (by omega))
  have h8 : 8 * (j / 8) + j % 8 = j := by omega
  have h9 : j % 8 < 8 := Nat.mod_lt _ (by omega)
  simpa only [getLsbD_byteAt, h8, h9, decide_true, Bool.true_and] using hb

@[simp] theorem byteAt_xor (x y : BitVec w) (i : Nat) : byteAt (x ^^^ y) i = byteAt x i ^^^ byteAt y i := by
  apply BitVec.eq_of_getLsbD_eq
  intro j hj
  simp only [BitVec.getLsbD_xor, getLsbD_byteAt, hj, decide_true, Bool.true_and]

/-- A byte of a slice is a byte of the array (spec/20 R52). -/
theorem byteAt_blockFrom (x : BitVec w) (off i : Nat) (hi : i < 16) :
    byteAt (blockFrom x off) i = byteAt x (off + i) := by
  apply BitVec.eq_of_getLsbD_eq
  intro j hj
  have h1 : 8 * i + j < 128 := by omega
  have h2 : 8 * off + (8 * i + j) = 8 * (off + i) + j := by omega
  simp only [getLsbD_byteAt, getLsbD_blockFrom, hj, h1, h2, decide_true, Bool.true_and]

theorem getLsbD_setBits (x : BitVec w) (off : Nat) (v : BitVec c) (j : Nat) :
    (setBits x off v).getLsbD j =
      if off ≤ j ∧ j < off + c ∧ j < w then v.getLsbD (j - off) else x.getLsbD j := by
  by_cases hw : j < w
  · by_cases h1 : off ≤ j
    · by_cases h2 : j < off + c
      · have h3 : j - off < c := by omega
        have h4 : ¬ j < off := by omega
        simp [setBits, hw, h1, h2, h3, h4]
      · have h3 : ¬ j - off < c := by omega
        have h4 : ¬ j < off := by omega
        have h5 : v.getLsbD (j - off) = false := v.getLsbD_of_ge (j - off) (by omega)
        simp [setBits, hw, h1, h2, h3, h4, h5]
    · have h4 : j < off := by omega
      simp [setBits, hw, h1, h4]
  · simp [hw, x.getLsbD_of_ge j (by omega), (setBits x off v).getLsbD_of_ge j (by omega)]

/-- The replaced byte of an array. -/
theorem byteAt_setByte_same (x : BitVec w) (i : Nat) (v : Byte) (hi : 8 * i + 8 ≤ w) : byteAt (setByte x i v) i = v := by
  apply BitVec.eq_of_getLsbD_eq
  intro j hj
  have h1 : 8 * i + j < 8 * i + 8 := by omega
  have h2 : 8 * i + j < w := by omega
  have h3 : 8 * i ≤ 8 * i + j := by omega
  simp only [getLsbD_byteAt, setByte, getLsbD_setBits, hj, h1, h2, h3, and_self, if_true, decide_true, Bool.true_and,
    Nat.add_sub_cancel_left]

/-- Every other byte of an array with a replaced byte. -/
theorem byteAt_setByte_other (x : BitVec w) (i k : Nat) (v : Byte) (hk : k ≠ i) :
    byteAt (setByte x i v) k = byteAt x k := by
  apply BitVec.eq_of_getLsbD_eq
  intro j hj
  have h1 : ¬ (8 * i ≤ 8 * k + j ∧ 8 * k + j < 8 * i + 8 ∧ 8 * k + j < w) := by omega
  simp only [getLsbD_byteAt, setByte, getLsbD_setBits, h1, if_false]

/-- The bits of a pair of lanes. -/
theorem getLsbD_cell (l0 l1 : Lane) (j : Nat) :
    (cell l0 l1).getLsbD j = if j < 64 then l0.getLsbD j else l1.getLsbD (j - 64) := by
  have h : (cell l0 l1).getLsbD j = (l1 ++ l0 : BitVec (64 + 64)).getLsbD j := rfl
  rw [h, BitVec.getLsbD_append]

@[simp] theorem lane0_cell (l0 l1 : Lane) : lane0 (cell l0 l1) = l0 := by
  apply BitVec.eq_of_getLsbD_eq
  intro j hj
  simp only [lane0, BitVec.getLsbD_extractLsb', getLsbD_cell, Nat.zero_add, hj, decide_true, Bool.true_and, if_true]

@[simp] theorem lane1_cell (l0 l1 : Lane) : lane1 (cell l0 l1) = l1 := by
  apply BitVec.eq_of_getLsbD_eq
  intro j hj
  have h : ¬ 64 + j < 64 := by omega
  simp only [lane1, BitVec.getLsbD_extractLsb', getLsbD_cell, hj, h, decide_true, Bool.true_and, if_false,
    Nat.add_sub_cancel_left]

/-- A block is its two lanes (spec/20 R52). -/
@[simp] theorem cell_lanes (x : Block) : cell (lane0 x) (lane1 x) = x := by
  apply BitVec.eq_of_getLsbD_eq
  intro j hj
  rw [getLsbD_cell]
  split
  · simp only [lane0, BitVec.getLsbD_extractLsb', Nat.zero_add, *, decide_true, Bool.true_and]
  · have h1 : j - 64 < 64 := by omega
    have h2 : 64 + (j - 64) = j := by omega
    simp only [lane1, BitVec.getLsbD_extractLsb', h1, h2, decide_true, Bool.true_and]

end Sys2Proof
end

