-- ==== Sys2Proof/Laws/Memory.lean ====
section
/-! SUPPORT. The laws of the scratchpad memory: read after write, the wide accesses byte by byte, the canonical form and
that every operation keeps it, and that equal contents in canonical form are equal data. -/

namespace Sys2Proof.Machine

/-! ### One byte -/

/-- Nothing is listed below the bound of a canonical memory. -/
theorem Memory.read_below {lo : Nat} {m : Memory} (h : Memory.wfFrom lo m = true) {a : Nat} (ha : a < lo) :
    Memory.read m a = Memory.unlisted := by
  induction m generalizing lo with
  | nil => rfl
  | cons p rest ih =>
    obtain ⟨k, v⟩ := p
    simp only [Memory.wfFrom, Bool.and_eq_true, decide_eq_true_eq] at h
    have hk : a ≠ k := by omega
    simp only [Memory.read, hk, if_false]
    exact ih h.2 (by omega)

/-- Read after write in a canonical memory. -/
theorem Memory.read_write_from {lo : Nat} {m : Memory} (h : Memory.wfFrom lo m = true) (a x : Nat) (v : Byte) :
    Memory.read (Memory.write m a v) x = if x = a then v else Memory.read m x := by
  induction m generalizing lo with
  | nil => by_cases hv : v = Memory.unlisted <;> simp [Memory.write, Memory.read, hv]
  | cons p rest ih =>
    obtain ⟨k, y⟩ := p
    have h' := h
    simp only [Memory.wfFrom, Bool.and_eq_true, decide_eq_true_eq] at h
    have hlow : a < k → Memory.read ((k, y) :: rest) a = Memory.unlisted := fun hak =>
      Memory.read_below (lo := k) (by simpa [Memory.wfFrom, h.1.1.2, h.2] using h.1.2) hak
    have hrest : Memory.read rest k = Memory.unlisted := Memory.read_below h.2 (by omega)
    simp only [Memory.write]
    split_ifs with h1 h2 h3 h4 <;> try simp only [Memory.read]
    all_goals by_cases hx : x = a
    all_goals try subst hx
    all_goals by_cases hxk : x = k
    all_goals simp_all [Memory.read]
    all_goals first | omega | exact ih h.2

/-- Read after write (the basic law of the memory). -/
theorem Memory.read_write {m : Memory} (h : Memory.wf m = true) (a x : Nat) (v : Byte) :
    Memory.read (Memory.write m a v) x = if x = a then v else Memory.read m x := Memory.read_write_from h a x v

theorem Memory.wfFrom_mono {lo lo' : Nat} {m : Memory} (h : Memory.wfFrom lo m = true) (hl : lo' ≤ lo) :
    Memory.wfFrom lo' m = true := by
  cases m with
  | nil => rfl
  | cons p rest =>
    simp only [Memory.wfFrom, Bool.and_eq_true, decide_eq_true_eq] at h ⊢
    exact ⟨⟨⟨by omega, h.1.1.2⟩, h.1.2⟩, h.2⟩

theorem Memory.wfFrom_write {lo : Nat} {m : Memory} (h : Memory.wfFrom lo m = true) {a : Nat} (hlo : lo ≤ a)
    (ha : a < spSize) (v : Byte) : Memory.wfFrom lo (Memory.write m a v) = true := by
  induction m generalizing lo with
  | nil => by_cases hv : v = Memory.unlisted <;> simp [Memory.write, Memory.wfFrom, hv, hlo, ha]
  | cons p rest ih =>
    obtain ⟨k, y⟩ := p
    have h' := h
    simp only [Memory.wfFrom, Bool.and_eq_true, decide_eq_true_eq] at h
    simp only [Memory.write]
    split_ifs with h1 h2 h3 h4
    · exact h'
    · simp only [Memory.wfFrom, Bool.and_eq_true, decide_eq_true_eq]
      exact ⟨⟨⟨hlo, ha⟩, by simpa using h2⟩, ⟨⟨by omega, h.1.1.2⟩, h.1.2⟩, h.2⟩
    · exact Memory.wfFrom_mono h.2 (by omega)
    · subst h3
      simp only [Memory.wfFrom, Bool.and_eq_true, decide_eq_true_eq]
      exact ⟨⟨⟨hlo, ha⟩, by simpa using h4⟩, h.2⟩
    · simp only [Memory.wfFrom, Bool.and_eq_true, decide_eq_true_eq]
      exact ⟨h.1, ih h.2 (by omega)⟩

/-- A write inside SP keeps the canonical form. -/
theorem Memory.wf_write {m : Memory} (h : Memory.wf m = true) {a : Nat} (ha : a < spSize) (v : Byte) :
    Memory.wf (Memory.write m a v) = true := Memory.wfFrom_write h (Nat.zero_le a) ha v

/-- Nothing is listed outside SP. -/
theorem Memory.read_outside_from {lo : Nat} {m : Memory} (h : Memory.wfFrom lo m = true) {a : Nat} (ha : spSize ≤ a) :
    Memory.read m a = Memory.unlisted := by
  induction m generalizing lo with
  | nil => rfl
  | cons p rest ih =>
    obtain ⟨k, v⟩ := p
    simp only [Memory.wfFrom, Bool.and_eq_true, decide_eq_true_eq] at h
    have hk : a ≠ k := by omega
    simp only [Memory.read, hk, if_false]
    exact ih h.2

theorem Memory.read_outside {m : Memory} (h : Memory.wf m = true) {a : Nat} (ha : spSize ≤ a) :
    Memory.read m a = Memory.unlisted := Memory.read_outside_from h ha

theorem Memory.ext_from {lo : Nat} {m m' : Memory} (h : Memory.wfFrom lo m = true) (h' : Memory.wfFrom lo m' = true)
    (hr : ∀ a, Memory.read m a = Memory.read m' a) : m = m' := by
  induction m generalizing lo m' with
  | nil =>
    cases m' with
    | nil => rfl
    | cons p rest =>
      obtain ⟨k, v⟩ := p
      have := hr k
      simp_all [Memory.read, Memory.wfFrom]
  | cons p rest ih =>
    obtain ⟨k, v⟩ := p
    cases m' with
    | nil =>
      have := hr k
      simp_all [Memory.read, Memory.wfFrom]
    | cons p' rest' =>
      obtain ⟨k', v'⟩ := p'
      simp only [Memory.wfFrom, Bool.and_eq_true, decide_eq_true_eq, bne_iff_ne, ne_eq] at h h'
      have hkk : k = k' := by
        rcases Nat.lt_trichotomy k k' with hlt | heq | hgt
        · have h1 := hr k
          have h2 : k ≠ k' := by omega
          rw [Memory.read, if_pos rfl, Memory.read, if_neg h2, Memory.read_below h'.2 (by omega)] at h1
          exact absurd h1 h.1.2
        · exact heq
        · have h1 := hr k'
          have h2 : k' ≠ k := by omega
          rw [Memory.read, if_neg h2, Memory.read, if_pos rfl, Memory.read_below h.2 (by omega)] at h1
          exact absurd h1.symm h'.1.2
      subst hkk
      have hv : v = v' := by simpa [Memory.read] using hr k
      subst hv
      have hrest : rest = rest' := by
        refine ih h.2 h'.2 fun a => ?_
        by_cases ha : a = k
        · subst ha
          rw [Memory.read_below h.2 (by omega), Memory.read_below h'.2 (by omega)]
        · simpa [Memory.read, ha] using hr a
      rw [hrest]

/-- Canonical memories with the same contents are equal data. -/
theorem Memory.ext {m m' : Memory} (h : Memory.wf m = true) (h' : Memory.wf m' = true)
    (hr : ∀ a, Memory.read m a = Memory.read m' a) : m = m' := Memory.ext_from h h' hr

/-! ### Wide accesses -/

/-- Byte i of a wide read is the byte at its address (spec/20 R53). -/
theorem Memory.byteAt_readN {w : Nat} (m : Memory) (a n i : Nat) (hw : 8 * n ≤ w) (hi : i < n) :
    byteAt (Memory.readN w m a n) i = Memory.read m (a + i) := byteAt_pack _ n i hw hi

theorem Memory.byteAt_readCell (m : Memory) (a i : Nat) (hi : i < 16) :
    byteAt (Memory.readCell m a) i = Memory.read m (a + i) := Memory.byteAt_readN m a 16 i (by omega) hi

theorem Memory.wf_writeN {w : Nat} {m : Memory} (h : Memory.wf m = true) (a : Nat) (v : BitVec w) (n : Nat)
    (ha : a + n ≤ spSize) : Memory.wf (Memory.writeN m a v n) = true := by
  induction n with
  | zero => exact h
  | succ n ih => exact Memory.wf_write (ih (by omega)) (by omega) _

/-- A wide write, byte by byte (spec/20 R53). -/
theorem Memory.read_writeN {w : Nat} {m : Memory} (h : Memory.wf m = true) (a : Nat) (v : BitVec w) (n x : Nat)
    (ha : a + n ≤ spSize) :
    Memory.read (Memory.writeN m a v n) x = if a ≤ x ∧ x < a + n then byteAt v (x - a) else Memory.read m x := by
  induction n with
  | zero =>
    have : ¬ (a ≤ x ∧ x < a + 0) := by omega
    simp only [Memory.writeN, this, if_false]
  | succ n ih =>
    rw [Memory.writeN, Memory.read_write (Memory.wf_writeN h a v n (by omega)), ih (by omega)]
    by_cases hx : x = a + n
    · subst hx
      have h1 : a ≤ a + n ∧ a + n < a + (n + 1) := by omega
      have h2 : a + n - a = n := by omega
      simp [h1, h2]
    · by_cases h1 : a ≤ x ∧ x < a + n
      · have h2 : a ≤ x ∧ x < a + (n + 1) := by omega
        simp [hx, h1, h2]
      · have h2 : ¬ (a ≤ x ∧ x < a + (n + 1)) := by omega
        simp [hx, h1, h2]

theorem Memory.wf_writeCell {m : Memory} (h : Memory.wf m = true) (a : Nat) (v : Block) (ha : a + 16 ≤ spSize) :
    Memory.wf (Memory.writeCell m a v) = true := Memory.wf_writeN h a v 16 ha

/-- A cell write, byte by byte. -/
theorem Memory.read_writeCell {m : Memory} (h : Memory.wf m = true) (a : Nat) (v : Block) (x : Nat)
    (ha : a + 16 ≤ spSize) :
    Memory.read (Memory.writeCell m a v) x = if a ≤ x ∧ x < a + 16 then byteAt v (x - a) else Memory.read m x :=
  Memory.read_writeN h a v 16 x ha

/-- A cell read after a write of the same cell (spec/42 R159). -/
theorem Memory.readCell_writeCell_same {m : Memory} (h : Memory.wf m = true) (a : Nat) (v : Block)
    (ha : a + 16 ≤ spSize) : Memory.readCell (Memory.writeCell m a v) a = v := by
  refine eq_of_byteAt 16 rfl fun i hi => ?_
  have h1 : a ≤ a + i ∧ a + i < a + 16 := by omega
  rw [Memory.byteAt_readCell _ _ _ hi, Memory.read_writeCell h _ _ _ ha, if_pos h1, Nat.add_sub_cancel_left]

/-- A cell read after a write of a disjoint cell. -/
theorem Memory.readCell_writeCell_other {m : Memory} (h : Memory.wf m = true) (a a' : Nat) (v : Block)
    (ha : a + 16 ≤ spSize) (hd : a' + 16 ≤ a ∨ a + 16 ≤ a') :
    Memory.readCell (Memory.writeCell m a v) a' = Memory.readCell m a' := by
  refine eq_of_byteAt 16 rfl fun i hi => ?_
  have h1 : ¬ (a ≤ a' + i ∧ a' + i < a + 16) := by omega
  rw [Memory.byteAt_readCell _ _ _ hi, Memory.byteAt_readCell _ _ _ hi, Memory.read_writeCell h _ _ _ ha, if_neg h1]

theorem Memory.wf_writeBlocks {m : Memory} (h : Memory.wf m = true) (a : Nat) (vs : List Block)
    (ha : a + 16 * vs.length ≤ spSize) : Memory.wf (Memory.writeBlocks m a vs) = true := by
  induction vs generalizing m a with
  | nil => exact h
  | cons v rest ih =>
    simp only [List.length_cons] at ha
    exact ih (Memory.wf_writeCell h a v (by omega)) (a + 16) (by omega)

/-- Consecutive blocks written, byte by byte. -/
theorem Memory.read_writeBlocks {m : Memory} (h : Memory.wf m = true) (a : Nat) (vs : List Block) (x : Nat)
    (ha : a + 16 * vs.length ≤ spSize) :
    Memory.read (Memory.writeBlocks m a vs) x =
      if a ≤ x ∧ x < a + 16 * vs.length then byteAt (vs.getD ((x - a) / 16) 0) ((x - a) % 16)
      else Memory.read m x := by
  induction vs generalizing m a with
  | nil =>
    have : ¬ (a ≤ x ∧ x < a + 16 * ([] : List Block).length) := by simp only [List.length_nil]; omega
    rw [if_neg this]; rfl
  | cons v rest ih =>
    simp only [List.length_cons] at ha ⊢
    rw [Memory.writeBlocks, ih (Memory.wf_writeCell h a v (by omega)) (a + 16) (by omega),
      Memory.read_writeCell h a v x (by omega)]
    by_cases h1 : a + 16 ≤ x ∧ x < a + 16 + 16 * rest.length
    · have h2 : a ≤ x ∧ x < a + 16 * (rest.length + 1) := by omega
      have h3 : (x - a) / 16 = (x - (a + 16)) / 16 + 1 := by omega
      have h4 : (x - a) % 16 = (x - (a + 16)) % 16 := by omega
      rw [if_pos h1, if_pos h2, h3, h4, List.getD_cons_succ]
    · rw [if_neg h1]
      by_cases h2 : a ≤ x ∧ x < a + 16
      · have h3 : a ≤ x ∧ x < a + 16 * (rest.length + 1) := by omega
        have h4 : (x - a) / 16 = 0 := by omega
        have h5 : (x - a) % 16 = x - a := by omega
        rw [if_pos h2, if_pos h3, h4, h5, List.getD_cons_zero]
      · have h3 : ¬ (a ≤ x ∧ x < a + 16 * (rest.length + 1)) := by omega
        rw [if_neg h2, if_neg h3]

theorem Memory.wf_ofFn (f : Nat → Byte) (n : Nat) (hn : n ≤ spSize) : Memory.wf (Memory.ofFn f n) = true := by
  induction n with
  | zero => rfl
  | succ n ih => exact Memory.wf_write (ih (by omega)) (by omega) _

/-- The memory of a function, byte by byte. -/
theorem Memory.read_ofFn (f : Nat → Byte) (n x : Nat) (hn : n ≤ spSize) :
    Memory.read (Memory.ofFn f n) x = if x < n then f x else Memory.unlisted := by
  induction n with
  | zero => rfl
  | succ n ih =>
    rw [Memory.ofFn, Memory.read_write (Memory.wf_ofFn f n (by omega)), ih (by omega)]
    by_cases hx : x = n
    · subst hx; simp
    · by_cases h1 : x < n
      · simp [hx, h1, Nat.lt_succ_of_lt h1]
      · have h2 : ¬ x < n + 1 := by omega
        simp [hx, h1, h2]

/-- Every scratchpad address is a cell of SP (spec/20 R53 to R55). -/
theorem spAddr_le (x : Block) : spAddr x + 16 ≤ spSize := by
  have h1 : spAddr x ≤ 0x1FFFF0 := by
    rw [spAddr, BitVec.toNat_and]
    exact Nat.and_le_right
  rw [spSize_eq]; omega

/-- A scratchpad address is that of a cell (spec/20 R55). -/
theorem spAddr_mod (x : Block) : spAddr x % 16 = 0 := by
  have h : (x.extractLsb' 0 24 &&& 0x1FFFF0#24) &&& 15 = 0 := by
    rw [BitVec.and_assoc]; simp
  have h := congrArg BitVec.toNat h
  rw [BitVec.toNat_and] at h
  have h : (x.extractLsb' 0 24 &&& 0x1FFFF0#24).toNat &&& 15 = 0 := by simpa using h
  rwa [show (15 : Nat) = 2 ^ 4 - 1 from rfl, Nat.and_two_pow_sub_one_eq_mod] at h

/-- Cells are equal where their bytes are. -/
theorem Memory.readCell_congr {m m' : Memory} {a : Nat} (h : ∀ i, i < 16 → Memory.read m (a + i) = Memory.read m' (a + i)) :
    Memory.readCell m a = Memory.readCell m' a :=
  eq_of_byteAt 16 rfl fun i hi => by rw [Memory.byteAt_readCell _ _ _ hi, Memory.byteAt_readCell _ _ _ hi, h i hi]

end Sys2Proof.Machine
end

