-- ==== Sys2Proof/Laws/State.lean ====
section
/-! SUPPORT. One lemma per field per named update of the state, so that no later proof unfolds a record update. -/

namespace Sys2Proof.Machine

variable (s : State)

/-! ### State.statusWrite -/

@[simp] theorem State.statusWrite_state (w : Word) : (s.statusWrite w).state = s.state := rfl
@[simp] theorem State.statusWrite_sp (w : Word) : (s.statusWrite w).sp = s.sp := rfl
@[simp] theorem State.statusWrite_rk (w : Word) : (s.statusWrite w).rk = s.rk := rfl
@[simp] theorem State.statusWrite_key (w : Word) : (s.statusWrite w).key = s.key := rfl
@[simp] theorem State.statusWrite_blk (w : Word) : (s.statusWrite w).blk = s.blk := rfl
@[simp] theorem State.statusWrite_rkey (w : Word) : (s.statusWrite w).rkey = s.rkey := rfl
@[simp] theorem State.statusWrite_a (w : Word) : (s.statusWrite w).a = s.a := rfl
@[simp] theorem State.statusWrite_b (w : Word) : (s.statusWrite w).b = s.b := rfl
@[simp] theorem State.statusWrite_nonce (w : Word) : (s.statusWrite w).nonce = s.nonce := rfl
@[simp] theorem State.statusWrite_tweak (w : Word) : (s.statusWrite w).tweak = s.tweak := rfl
@[simp] theorem State.statusWrite_varL (w : Word) : (s.statusWrite w).varL = s.varL := rfl
@[simp] theorem State.statusWrite_mixReady (w : Word) : (s.statusWrite w).mixReady = s.mixReady := rfl
@[simp] theorem State.statusWrite_iter (w : Word) : (s.statusWrite w).iter = s.iter := rfl
@[simp] theorem State.statusWrite_msglen (w : Word) : (s.statusWrite w).msglen = s.msglen := rfl
@[simp] theorem State.statusWrite_pend (w : Word) : (s.statusWrite w).pend = s.pend := rfl
@[simp] theorem State.statusWrite_busy (w : Word) : (s.statusWrite w).busy = s.busy := rfl
@[simp] theorem State.statusWrite_done (w : Word) : (s.statusWrite w).done = if w.getLsbD 1 then false else s.done := rfl
@[simp] theorem State.statusWrite_err (w : Word) : (s.statusWrite w).err = if w.getLsbD 2 then false else s.err := rfl
@[simp] theorem State.statusWrite_ecode (w : Word) : (s.statusWrite w).ecode = if w.getLsbD 2 then .none else s.ecode := rfl
@[simp] theorem State.statusWrite_ieDone (w : Word) : (s.statusWrite w).ieDone = s.ieDone := rfl
@[simp] theorem State.statusWrite_ieErr (w : Word) : (s.statusWrite w).ieErr = s.ieErr := rfl
@[simp] theorem State.statusWrite_kReq (w : Word) : (s.statusWrite w).kReq = s.kReq := rfl
@[simp] theorem State.statusWrite_keccakAnswers (w : Word) : (s.statusWrite w).keccakAnswers = s.keccakAnswers := rfl
@[simp] theorem State.statusWrite_reply (w : Word) : (s.statusWrite w).reply = s.reply := rfl
@[simp] theorem State.statusWrite_draws (w : Word) : (s.statusWrite w).draws = s.draws := rfl
@[simp] theorem State.statusWrite_inputs (w : Word) : (s.statusWrite w).inputs = s.inputs := rfl

/-! ### State.ctrlWrite -/

@[simp] theorem State.ctrlWrite_state (w : Word) : (s.ctrlWrite w).state = s.state := rfl
@[simp] theorem State.ctrlWrite_sp (w : Word) : (s.ctrlWrite w).sp = s.sp := rfl
@[simp] theorem State.ctrlWrite_rk (w : Word) : (s.ctrlWrite w).rk = s.rk := rfl
@[simp] theorem State.ctrlWrite_key (w : Word) : (s.ctrlWrite w).key = s.key := rfl
@[simp] theorem State.ctrlWrite_blk (w : Word) : (s.ctrlWrite w).blk = s.blk := rfl
@[simp] theorem State.ctrlWrite_rkey (w : Word) : (s.ctrlWrite w).rkey = s.rkey := rfl
@[simp] theorem State.ctrlWrite_a (w : Word) : (s.ctrlWrite w).a = s.a := rfl
@[simp] theorem State.ctrlWrite_b (w : Word) : (s.ctrlWrite w).b = s.b := rfl
@[simp] theorem State.ctrlWrite_nonce (w : Word) : (s.ctrlWrite w).nonce = s.nonce := rfl
@[simp] theorem State.ctrlWrite_tweak (w : Word) : (s.ctrlWrite w).tweak = s.tweak := rfl
@[simp] theorem State.ctrlWrite_varL (w : Word) : (s.ctrlWrite w).varL = s.varL := rfl
@[simp] theorem State.ctrlWrite_mixReady (w : Word) : (s.ctrlWrite w).mixReady = s.mixReady := rfl
@[simp] theorem State.ctrlWrite_iter (w : Word) : (s.ctrlWrite w).iter = s.iter := rfl
@[simp] theorem State.ctrlWrite_msglen (w : Word) : (s.ctrlWrite w).msglen = s.msglen := rfl
@[simp] theorem State.ctrlWrite_pend (w : Word) : (s.ctrlWrite w).pend = s.pend := rfl
@[simp] theorem State.ctrlWrite_busy (w : Word) : (s.ctrlWrite w).busy = s.busy := rfl
@[simp] theorem State.ctrlWrite_done (w : Word) : (s.ctrlWrite w).done = s.done := rfl
@[simp] theorem State.ctrlWrite_err (w : Word) : (s.ctrlWrite w).err = s.err := rfl
@[simp] theorem State.ctrlWrite_ecode (w : Word) : (s.ctrlWrite w).ecode = s.ecode := rfl
@[simp] theorem State.ctrlWrite_ieDone (w : Word) : (s.ctrlWrite w).ieDone = w.getLsbD 0 := rfl
@[simp] theorem State.ctrlWrite_ieErr (w : Word) : (s.ctrlWrite w).ieErr = w.getLsbD 1 := rfl
@[simp] theorem State.ctrlWrite_kReq (w : Word) : (s.ctrlWrite w).kReq = s.kReq := rfl
@[simp] theorem State.ctrlWrite_keccakAnswers (w : Word) : (s.ctrlWrite w).keccakAnswers = s.keccakAnswers := rfl
@[simp] theorem State.ctrlWrite_reply (w : Word) : (s.ctrlWrite w).reply = s.reply := rfl
@[simp] theorem State.ctrlWrite_draws (w : Word) : (s.ctrlWrite w).draws = s.draws := rfl
@[simp] theorem State.ctrlWrite_inputs (w : Word) : (s.ctrlWrite w).inputs = s.inputs := rfl

/-! ### State.accept -/

@[simp] theorem State.accept_state (w : Word) : (s.accept w).state = s.state := rfl
@[simp] theorem State.accept_sp (w : Word) : (s.accept w).sp = s.sp := rfl
@[simp] theorem State.accept_rk (w : Word) : (s.accept w).rk = s.rk := rfl
@[simp] theorem State.accept_key (w : Word) : (s.accept w).key = s.key := rfl
@[simp] theorem State.accept_blk (w : Word) : (s.accept w).blk = s.blk := rfl
@[simp] theorem State.accept_rkey (w : Word) : (s.accept w).rkey = s.rkey := rfl
@[simp] theorem State.accept_a (w : Word) : (s.accept w).a = s.a := rfl
@[simp] theorem State.accept_b (w : Word) : (s.accept w).b = s.b := rfl
@[simp] theorem State.accept_nonce (w : Word) : (s.accept w).nonce = s.nonce := rfl
@[simp] theorem State.accept_tweak (w : Word) : (s.accept w).tweak = s.tweak := rfl
@[simp] theorem State.accept_varL (w : Word) : (s.accept w).varL = s.varL := rfl
@[simp] theorem State.accept_mixReady (w : Word) : (s.accept w).mixReady = s.mixReady := rfl
@[simp] theorem State.accept_iter (w : Word) : (s.accept w).iter = s.iter := rfl
@[simp] theorem State.accept_msglen (w : Word) : (s.accept w).msglen = s.msglen := rfl
@[simp] theorem State.accept_pend (w : Word) : (s.accept w).pend = some w := rfl
@[simp] theorem State.accept_busy (w : Word) : (s.accept w).busy = true := rfl
@[simp] theorem State.accept_done (w : Word) : (s.accept w).done = false := rfl
@[simp] theorem State.accept_err (w : Word) : (s.accept w).err = s.err := rfl
@[simp] theorem State.accept_ecode (w : Word) : (s.accept w).ecode = s.ecode := rfl
@[simp] theorem State.accept_ieDone (w : Word) : (s.accept w).ieDone = s.ieDone := rfl
@[simp] theorem State.accept_ieErr (w : Word) : (s.accept w).ieErr = s.ieErr := rfl
@[simp] theorem State.accept_kReq (w : Word) : (s.accept w).kReq = s.kReq := rfl
@[simp] theorem State.accept_keccakAnswers (w : Word) : (s.accept w).keccakAnswers = s.keccakAnswers := rfl
@[simp] theorem State.accept_reply (w : Word) : (s.accept w).reply = s.reply := rfl
@[simp] theorem State.accept_draws (w : Word) : (s.accept w).draws = s.draws := rfl
@[simp] theorem State.accept_inputs (w : Word) : (s.accept w).inputs = s.inputs := rfl

/-! ### State.complete -/

@[simp] theorem State.complete_state : (s.complete).state = s.state := rfl
@[simp] theorem State.complete_sp : (s.complete).sp = s.sp := rfl
@[simp] theorem State.complete_rk : (s.complete).rk = s.rk := rfl
@[simp] theorem State.complete_key : (s.complete).key = s.key := rfl
@[simp] theorem State.complete_blk : (s.complete).blk = s.blk := rfl
@[simp] theorem State.complete_rkey : (s.complete).rkey = s.rkey := rfl
@[simp] theorem State.complete_a : (s.complete).a = s.a := rfl
@[simp] theorem State.complete_b : (s.complete).b = s.b := rfl
@[simp] theorem State.complete_nonce : (s.complete).nonce = s.nonce := rfl
@[simp] theorem State.complete_tweak : (s.complete).tweak = s.tweak := rfl
@[simp] theorem State.complete_varL : (s.complete).varL = s.varL := rfl
@[simp] theorem State.complete_mixReady : (s.complete).mixReady = s.mixReady := rfl
@[simp] theorem State.complete_iter : (s.complete).iter = s.iter := rfl
@[simp] theorem State.complete_msglen : (s.complete).msglen = s.msglen := rfl
@[simp] theorem State.complete_pend : (s.complete).pend = none := rfl
@[simp] theorem State.complete_busy : (s.complete).busy = false := rfl
@[simp] theorem State.complete_done : (s.complete).done = true := rfl
@[simp] theorem State.complete_err : (s.complete).err = s.err := rfl
@[simp] theorem State.complete_ecode : (s.complete).ecode = s.ecode := rfl
@[simp] theorem State.complete_ieDone : (s.complete).ieDone = s.ieDone := rfl
@[simp] theorem State.complete_ieErr : (s.complete).ieErr = s.ieErr := rfl
@[simp] theorem State.complete_kReq : (s.complete).kReq = false := rfl
@[simp] theorem State.complete_keccakAnswers : (s.complete).keccakAnswers = s.keccakAnswers := rfl
@[simp] theorem State.complete_reply : (s.complete).reply = s.reply := rfl
@[simp] theorem State.complete_draws : (s.complete).draws = s.draws := rfl
@[simp] theorem State.complete_inputs : (s.complete).inputs = s.inputs := rfl

/-! ### State.awaitKeccak -/

@[simp] theorem State.awaitKeccak_state : (s.awaitKeccak).state = s.state := rfl
@[simp] theorem State.awaitKeccak_sp : (s.awaitKeccak).sp = s.sp := rfl
@[simp] theorem State.awaitKeccak_rk : (s.awaitKeccak).rk = s.rk := rfl
@[simp] theorem State.awaitKeccak_key : (s.awaitKeccak).key = s.key := rfl
@[simp] theorem State.awaitKeccak_blk : (s.awaitKeccak).blk = s.blk := rfl
@[simp] theorem State.awaitKeccak_rkey : (s.awaitKeccak).rkey = s.rkey := rfl
@[simp] theorem State.awaitKeccak_a : (s.awaitKeccak).a = s.a := rfl
@[simp] theorem State.awaitKeccak_b : (s.awaitKeccak).b = s.b := rfl
@[simp] theorem State.awaitKeccak_nonce : (s.awaitKeccak).nonce = s.nonce := rfl
@[simp] theorem State.awaitKeccak_tweak : (s.awaitKeccak).tweak = s.tweak := rfl
@[simp] theorem State.awaitKeccak_varL : (s.awaitKeccak).varL = s.varL := rfl
@[simp] theorem State.awaitKeccak_mixReady : (s.awaitKeccak).mixReady = s.mixReady := rfl
@[simp] theorem State.awaitKeccak_iter : (s.awaitKeccak).iter = s.iter := rfl
@[simp] theorem State.awaitKeccak_msglen : (s.awaitKeccak).msglen = s.msglen := rfl
@[simp] theorem State.awaitKeccak_pend : (s.awaitKeccak).pend = s.pend := rfl
@[simp] theorem State.awaitKeccak_busy : (s.awaitKeccak).busy = s.busy := rfl
@[simp] theorem State.awaitKeccak_done : (s.awaitKeccak).done = s.done := rfl
@[simp] theorem State.awaitKeccak_err : (s.awaitKeccak).err = s.err := rfl
@[simp] theorem State.awaitKeccak_ecode : (s.awaitKeccak).ecode = s.ecode := rfl
@[simp] theorem State.awaitKeccak_ieDone : (s.awaitKeccak).ieDone = s.ieDone := rfl
@[simp] theorem State.awaitKeccak_ieErr : (s.awaitKeccak).ieErr = s.ieErr := rfl
@[simp] theorem State.awaitKeccak_kReq : (s.awaitKeccak).kReq = true := rfl
@[simp] theorem State.awaitKeccak_keccakAnswers : (s.awaitKeccak).keccakAnswers = s.keccakAnswers := rfl
@[simp] theorem State.awaitKeccak_reply : (s.awaitKeccak).reply = s.reply := rfl
@[simp] theorem State.awaitKeccak_draws : (s.awaitKeccak).draws = s.draws := rfl
@[simp] theorem State.awaitKeccak_inputs : (s.awaitKeccak).inputs = s.inputs := rfl

/-! ### State.recordError -/

@[simp] theorem State.recordError_state (e : ErrorCode) : (s.recordError e).state = s.state := rfl
@[simp] theorem State.recordError_sp (e : ErrorCode) : (s.recordError e).sp = s.sp := rfl
@[simp] theorem State.recordError_rk (e : ErrorCode) : (s.recordError e).rk = s.rk := rfl
@[simp] theorem State.recordError_key (e : ErrorCode) : (s.recordError e).key = s.key := rfl
@[simp] theorem State.recordError_blk (e : ErrorCode) : (s.recordError e).blk = s.blk := rfl
@[simp] theorem State.recordError_rkey (e : ErrorCode) : (s.recordError e).rkey = s.rkey := rfl
@[simp] theorem State.recordError_a (e : ErrorCode) : (s.recordError e).a = s.a := rfl
@[simp] theorem State.recordError_b (e : ErrorCode) : (s.recordError e).b = s.b := rfl
@[simp] theorem State.recordError_nonce (e : ErrorCode) : (s.recordError e).nonce = s.nonce := rfl
@[simp] theorem State.recordError_tweak (e : ErrorCode) : (s.recordError e).tweak = s.tweak := rfl
@[simp] theorem State.recordError_varL (e : ErrorCode) : (s.recordError e).varL = s.varL := rfl
@[simp] theorem State.recordError_mixReady (e : ErrorCode) : (s.recordError e).mixReady = s.mixReady := rfl
@[simp] theorem State.recordError_iter (e : ErrorCode) : (s.recordError e).iter = s.iter := rfl
@[simp] theorem State.recordError_msglen (e : ErrorCode) : (s.recordError e).msglen = s.msglen := rfl
@[simp] theorem State.recordError_pend (e : ErrorCode) : (s.recordError e).pend = s.pend := rfl
@[simp] theorem State.recordError_busy (e : ErrorCode) : (s.recordError e).busy = s.busy := rfl
@[simp] theorem State.recordError_done (e : ErrorCode) : (s.recordError e).done = s.done := rfl
@[simp] theorem State.recordError_err (e : ErrorCode) : (s.recordError e).err = true := rfl
@[simp] theorem State.recordError_ecode (e : ErrorCode) : (s.recordError e).ecode = if s.err then s.ecode else e := rfl
@[simp] theorem State.recordError_ieDone (e : ErrorCode) : (s.recordError e).ieDone = s.ieDone := rfl
@[simp] theorem State.recordError_ieErr (e : ErrorCode) : (s.recordError e).ieErr = s.ieErr := rfl
@[simp] theorem State.recordError_kReq (e : ErrorCode) : (s.recordError e).kReq = s.kReq := rfl
@[simp] theorem State.recordError_keccakAnswers (e : ErrorCode) : (s.recordError e).keccakAnswers = s.keccakAnswers := rfl
@[simp] theorem State.recordError_reply (e : ErrorCode) : (s.recordError e).reply = s.reply := rfl
@[simp] theorem State.recordError_draws (e : ErrorCode) : (s.recordError e).draws = s.draws := rfl
@[simp] theorem State.recordError_inputs (e : ErrorCode) : (s.recordError e).inputs = s.inputs := rfl

/-! ### State.answer -/

@[simp] theorem State.answer_state (r : Resp) (d : Option Word) : (s.answer r d).state = s.state := rfl
@[simp] theorem State.answer_sp (r : Resp) (d : Option Word) : (s.answer r d).sp = s.sp := rfl
@[simp] theorem State.answer_rk (r : Resp) (d : Option Word) : (s.answer r d).rk = s.rk := rfl
@[simp] theorem State.answer_key (r : Resp) (d : Option Word) : (s.answer r d).key = s.key := rfl
@[simp] theorem State.answer_blk (r : Resp) (d : Option Word) : (s.answer r d).blk = s.blk := rfl
@[simp] theorem State.answer_rkey (r : Resp) (d : Option Word) : (s.answer r d).rkey = s.rkey := rfl
@[simp] theorem State.answer_a (r : Resp) (d : Option Word) : (s.answer r d).a = s.a := rfl
@[simp] theorem State.answer_b (r : Resp) (d : Option Word) : (s.answer r d).b = s.b := rfl
@[simp] theorem State.answer_nonce (r : Resp) (d : Option Word) : (s.answer r d).nonce = s.nonce := rfl
@[simp] theorem State.answer_tweak (r : Resp) (d : Option Word) : (s.answer r d).tweak = s.tweak := rfl
@[simp] theorem State.answer_varL (r : Resp) (d : Option Word) : (s.answer r d).varL = s.varL := rfl
@[simp] theorem State.answer_mixReady (r : Resp) (d : Option Word) : (s.answer r d).mixReady = s.mixReady := rfl
@[simp] theorem State.answer_iter (r : Resp) (d : Option Word) : (s.answer r d).iter = s.iter := rfl
@[simp] theorem State.answer_msglen (r : Resp) (d : Option Word) : (s.answer r d).msglen = s.msglen := rfl
@[simp] theorem State.answer_pend (r : Resp) (d : Option Word) : (s.answer r d).pend = s.pend := rfl
@[simp] theorem State.answer_busy (r : Resp) (d : Option Word) : (s.answer r d).busy = s.busy := rfl
@[simp] theorem State.answer_done (r : Resp) (d : Option Word) : (s.answer r d).done = s.done := rfl
@[simp] theorem State.answer_err (r : Resp) (d : Option Word) : (s.answer r d).err = s.err := rfl
@[simp] theorem State.answer_ecode (r : Resp) (d : Option Word) : (s.answer r d).ecode = s.ecode := rfl
@[simp] theorem State.answer_ieDone (r : Resp) (d : Option Word) : (s.answer r d).ieDone = s.ieDone := rfl
@[simp] theorem State.answer_ieErr (r : Resp) (d : Option Word) : (s.answer r d).ieErr = s.ieErr := rfl
@[simp] theorem State.answer_kReq (r : Resp) (d : Option Word) : (s.answer r d).kReq = s.kReq := rfl
@[simp] theorem State.answer_keccakAnswers (r : Resp) (d : Option Word) : (s.answer r d).keccakAnswers = s.keccakAnswers := rfl
@[simp] theorem State.answer_reply (r : Resp) (d : Option Word) : (s.answer r d).reply = some ⟨r, d⟩ := rfl
@[simp] theorem State.answer_draws (r : Resp) (d : Option Word) : (s.answer r d).draws = s.draws := rfl
@[simp] theorem State.answer_inputs (r : Resp) (d : Option Word) : (s.answer r d).inputs = s.inputs := rfl

/-! ### State.raiseBus -/

@[simp] theorem State.raiseBus_state (e : ErrorCode) (rd : Bool) : (s.raiseBus e rd).state = s.state := rfl
@[simp] theorem State.raiseBus_sp (e : ErrorCode) (rd : Bool) : (s.raiseBus e rd).sp = s.sp := rfl
@[simp] theorem State.raiseBus_rk (e : ErrorCode) (rd : Bool) : (s.raiseBus e rd).rk = s.rk := rfl
@[simp] theorem State.raiseBus_key (e : ErrorCode) (rd : Bool) : (s.raiseBus e rd).key = s.key := rfl
@[simp] theorem State.raiseBus_blk (e : ErrorCode) (rd : Bool) : (s.raiseBus e rd).blk = s.blk := rfl
@[simp] theorem State.raiseBus_rkey (e : ErrorCode) (rd : Bool) : (s.raiseBus e rd).rkey = s.rkey := rfl
@[simp] theorem State.raiseBus_a (e : ErrorCode) (rd : Bool) : (s.raiseBus e rd).a = s.a := rfl
@[simp] theorem State.raiseBus_b (e : ErrorCode) (rd : Bool) : (s.raiseBus e rd).b = s.b := rfl
@[simp] theorem State.raiseBus_nonce (e : ErrorCode) (rd : Bool) : (s.raiseBus e rd).nonce = s.nonce := rfl
@[simp] theorem State.raiseBus_tweak (e : ErrorCode) (rd : Bool) : (s.raiseBus e rd).tweak = s.tweak := rfl
@[simp] theorem State.raiseBus_varL (e : ErrorCode) (rd : Bool) : (s.raiseBus e rd).varL = s.varL := rfl
@[simp] theorem State.raiseBus_mixReady (e : ErrorCode) (rd : Bool) : (s.raiseBus e rd).mixReady = s.mixReady := rfl
@[simp] theorem State.raiseBus_iter (e : ErrorCode) (rd : Bool) : (s.raiseBus e rd).iter = s.iter := rfl
@[simp] theorem State.raiseBus_msglen (e : ErrorCode) (rd : Bool) : (s.raiseBus e rd).msglen = s.msglen := rfl
@[simp] theorem State.raiseBus_pend (e : ErrorCode) (rd : Bool) : (s.raiseBus e rd).pend = s.pend := rfl
@[simp] theorem State.raiseBus_busy (e : ErrorCode) (rd : Bool) : (s.raiseBus e rd).busy = s.busy := rfl
@[simp] theorem State.raiseBus_done (e : ErrorCode) (rd : Bool) : (s.raiseBus e rd).done = s.done := rfl
@[simp] theorem State.raiseBus_err (e : ErrorCode) (rd : Bool) : (s.raiseBus e rd).err = true := rfl
@[simp] theorem State.raiseBus_ecode (e : ErrorCode) (rd : Bool) : (s.raiseBus e rd).ecode = if s.err then s.ecode else e := rfl
@[simp] theorem State.raiseBus_ieDone (e : ErrorCode) (rd : Bool) : (s.raiseBus e rd).ieDone = s.ieDone := rfl
@[simp] theorem State.raiseBus_ieErr (e : ErrorCode) (rd : Bool) : (s.raiseBus e rd).ieErr = s.ieErr := rfl
@[simp] theorem State.raiseBus_kReq (e : ErrorCode) (rd : Bool) : (s.raiseBus e rd).kReq = s.kReq := rfl
@[simp] theorem State.raiseBus_keccakAnswers (e : ErrorCode) (rd : Bool) : (s.raiseBus e rd).keccakAnswers = s.keccakAnswers := rfl
@[simp] theorem State.raiseBus_reply (e : ErrorCode) (rd : Bool) : (s.raiseBus e rd).reply = some ⟨.err, if rd then some 0 else none⟩ := rfl
@[simp] theorem State.raiseBus_draws (e : ErrorCode) (rd : Bool) : (s.raiseBus e rd).draws = s.draws := rfl
@[simp] theorem State.raiseBus_inputs (e : ErrorCode) (rd : Bool) : (s.raiseBus e rd).inputs = s.inputs := rfl

/-! ### State.raiseCmd -/

@[simp] theorem State.raiseCmd_state (e : ErrorCode) : (s.raiseCmd e).state = s.state := rfl
@[simp] theorem State.raiseCmd_sp (e : ErrorCode) : (s.raiseCmd e).sp = s.sp := rfl
@[simp] theorem State.raiseCmd_rk (e : ErrorCode) : (s.raiseCmd e).rk = s.rk := rfl
@[simp] theorem State.raiseCmd_key (e : ErrorCode) : (s.raiseCmd e).key = s.key := rfl
@[simp] theorem State.raiseCmd_blk (e : ErrorCode) : (s.raiseCmd e).blk = s.blk := rfl
@[simp] theorem State.raiseCmd_rkey (e : ErrorCode) : (s.raiseCmd e).rkey = s.rkey := rfl
@[simp] theorem State.raiseCmd_a (e : ErrorCode) : (s.raiseCmd e).a = s.a := rfl
@[simp] theorem State.raiseCmd_b (e : ErrorCode) : (s.raiseCmd e).b = s.b := rfl
@[simp] theorem State.raiseCmd_nonce (e : ErrorCode) : (s.raiseCmd e).nonce = s.nonce := rfl
@[simp] theorem State.raiseCmd_tweak (e : ErrorCode) : (s.raiseCmd e).tweak = s.tweak := rfl
@[simp] theorem State.raiseCmd_varL (e : ErrorCode) : (s.raiseCmd e).varL = s.varL := rfl
@[simp] theorem State.raiseCmd_mixReady (e : ErrorCode) : (s.raiseCmd e).mixReady = s.mixReady := rfl
@[simp] theorem State.raiseCmd_iter (e : ErrorCode) : (s.raiseCmd e).iter = s.iter := rfl
@[simp] theorem State.raiseCmd_msglen (e : ErrorCode) : (s.raiseCmd e).msglen = s.msglen := rfl
@[simp] theorem State.raiseCmd_pend (e : ErrorCode) : (s.raiseCmd e).pend = s.pend := rfl
@[simp] theorem State.raiseCmd_busy (e : ErrorCode) : (s.raiseCmd e).busy = s.busy := rfl
@[simp] theorem State.raiseCmd_done (e : ErrorCode) : (s.raiseCmd e).done = s.done := rfl
@[simp] theorem State.raiseCmd_err (e : ErrorCode) : (s.raiseCmd e).err = true := rfl
@[simp] theorem State.raiseCmd_ecode (e : ErrorCode) : (s.raiseCmd e).ecode = if s.err then s.ecode else e := rfl
@[simp] theorem State.raiseCmd_ieDone (e : ErrorCode) : (s.raiseCmd e).ieDone = s.ieDone := rfl
@[simp] theorem State.raiseCmd_ieErr (e : ErrorCode) : (s.raiseCmd e).ieErr = s.ieErr := rfl
@[simp] theorem State.raiseCmd_kReq (e : ErrorCode) : (s.raiseCmd e).kReq = s.kReq := rfl
@[simp] theorem State.raiseCmd_keccakAnswers (e : ErrorCode) : (s.raiseCmd e).keccakAnswers = s.keccakAnswers := rfl
@[simp] theorem State.raiseCmd_reply (e : ErrorCode) : (s.raiseCmd e).reply = s.reply := rfl
@[simp] theorem State.raiseCmd_draws (e : ErrorCode) : (s.raiseCmd e).draws = s.draws := rfl
@[simp] theorem State.raiseCmd_inputs (e : ErrorCode) : (s.raiseCmd e).inputs = s.inputs := rfl

/-! ### State.answerRead -/

@[simp] theorem State.answerRead_state (v : Word) (n : Nat) : (s.answerRead v n).state = s.state := rfl
@[simp] theorem State.answerRead_sp (v : Word) (n : Nat) : (s.answerRead v n).sp = s.sp := rfl
@[simp] theorem State.answerRead_rk (v : Word) (n : Nat) : (s.answerRead v n).rk = s.rk := rfl
@[simp] theorem State.answerRead_key (v : Word) (n : Nat) : (s.answerRead v n).key = s.key := rfl
@[simp] theorem State.answerRead_blk (v : Word) (n : Nat) : (s.answerRead v n).blk = s.blk := rfl
@[simp] theorem State.answerRead_rkey (v : Word) (n : Nat) : (s.answerRead v n).rkey = s.rkey := rfl
@[simp] theorem State.answerRead_a (v : Word) (n : Nat) : (s.answerRead v n).a = s.a := rfl
@[simp] theorem State.answerRead_b (v : Word) (n : Nat) : (s.answerRead v n).b = s.b := rfl
@[simp] theorem State.answerRead_nonce (v : Word) (n : Nat) : (s.answerRead v n).nonce = s.nonce := rfl
@[simp] theorem State.answerRead_tweak (v : Word) (n : Nat) : (s.answerRead v n).tweak = s.tweak := rfl
@[simp] theorem State.answerRead_varL (v : Word) (n : Nat) : (s.answerRead v n).varL = s.varL := rfl
@[simp] theorem State.answerRead_mixReady (v : Word) (n : Nat) : (s.answerRead v n).mixReady = s.mixReady := rfl
@[simp] theorem State.answerRead_iter (v : Word) (n : Nat) : (s.answerRead v n).iter = s.iter := rfl
@[simp] theorem State.answerRead_msglen (v : Word) (n : Nat) : (s.answerRead v n).msglen = s.msglen := rfl
@[simp] theorem State.answerRead_pend (v : Word) (n : Nat) : (s.answerRead v n).pend = s.pend := rfl
@[simp] theorem State.answerRead_busy (v : Word) (n : Nat) : (s.answerRead v n).busy = s.busy := rfl
@[simp] theorem State.answerRead_done (v : Word) (n : Nat) : (s.answerRead v n).done = s.done := rfl
@[simp] theorem State.answerRead_err (v : Word) (n : Nat) : (s.answerRead v n).err = s.err := rfl
@[simp] theorem State.answerRead_ecode (v : Word) (n : Nat) : (s.answerRead v n).ecode = s.ecode := rfl
@[simp] theorem State.answerRead_ieDone (v : Word) (n : Nat) : (s.answerRead v n).ieDone = s.ieDone := rfl
@[simp] theorem State.answerRead_ieErr (v : Word) (n : Nat) : (s.answerRead v n).ieErr = s.ieErr := rfl
@[simp] theorem State.answerRead_kReq (v : Word) (n : Nat) : (s.answerRead v n).kReq = s.kReq := rfl
@[simp] theorem State.answerRead_keccakAnswers (v : Word) (n : Nat) : (s.answerRead v n).keccakAnswers = s.keccakAnswers := rfl
@[simp] theorem State.answerRead_reply (v : Word) (n : Nat) : (s.answerRead v n).reply = some ⟨.ok, some v⟩ := rfl
@[simp] theorem State.answerRead_draws (v : Word) (n : Nat) : (s.answerRead v n).draws = s.draws + n := rfl
@[simp] theorem State.answerRead_inputs (v : Word) (n : Nat) : (s.answerRead v n).inputs = s.inputs := rfl

/-! ### kpermBody -/

@[simp] theorem kpermBody_state : (kpermBody s).state = Config.keccakF s.state := by cases s; rfl
@[simp] theorem kpermBody_sp : (kpermBody s).sp = s.sp := by cases s; rfl
@[simp] theorem kpermBody_rk : (kpermBody s).rk = s.rk := by cases s; rfl
@[simp] theorem kpermBody_key : (kpermBody s).key = s.key := by cases s; rfl
@[simp] theorem kpermBody_blk : (kpermBody s).blk = s.blk := by cases s; rfl
@[simp] theorem kpermBody_rkey : (kpermBody s).rkey = s.rkey := by cases s; rfl
@[simp] theorem kpermBody_a : (kpermBody s).a = s.a := by cases s; rfl
@[simp] theorem kpermBody_b : (kpermBody s).b = s.b := by cases s; rfl
@[simp] theorem kpermBody_nonce : (kpermBody s).nonce = s.nonce := by cases s; rfl
@[simp] theorem kpermBody_tweak : (kpermBody s).tweak = s.tweak := by cases s; rfl
@[simp] theorem kpermBody_varL : (kpermBody s).varL = s.varL := by cases s; rfl
@[simp] theorem kpermBody_mixReady : (kpermBody s).mixReady = s.mixReady := by cases s; rfl
@[simp] theorem kpermBody_iter : (kpermBody s).iter = s.iter := by cases s; rfl
@[simp] theorem kpermBody_msglen : (kpermBody s).msglen = s.msglen := by cases s; rfl
@[simp] theorem kpermBody_pend : (kpermBody s).pend = s.pend := by cases s; rfl
@[simp] theorem kpermBody_busy : (kpermBody s).busy = s.busy := by cases s; rfl
@[simp] theorem kpermBody_done : (kpermBody s).done = s.done := by cases s; rfl
@[simp] theorem kpermBody_err : (kpermBody s).err = s.err := by cases s; rfl
@[simp] theorem kpermBody_ecode : (kpermBody s).ecode = s.ecode := by cases s; rfl
@[simp] theorem kpermBody_ieDone : (kpermBody s).ieDone = s.ieDone := by cases s; rfl
@[simp] theorem kpermBody_ieErr : (kpermBody s).ieErr = s.ieErr := by cases s; rfl
@[simp] theorem kpermBody_kReq : (kpermBody s).kReq = s.kReq := by cases s; rfl
@[simp] theorem kpermBody_keccakAnswers : (kpermBody s).keccakAnswers = s.keccakAnswers := by cases s; rfl
@[simp] theorem kpermBody_reply : (kpermBody s).reply = s.reply := by cases s; rfl
@[simp] theorem kpermBody_draws : (kpermBody s).draws = s.draws := by cases s; rfl
@[simp] theorem kpermBody_inputs : (kpermBody s).inputs = s.inputs := by cases s; rfl

/-! ### spInitBody -/

@[simp] theorem spInitBody_state : (spInitBody s).state = s.state := by cases s; rfl
@[simp] theorem spInitBody_sp : (spInitBody s).sp = spInitLoop (expandKey (s.state.extractLsb' 0 256)) chunkCount 0 (seedBlocks s.state) s.sp := by cases s; rfl
@[simp] theorem spInitBody_rk : (spInitBody s).rk = expandKey (s.state.extractLsb' 0 256) := by cases s; rfl
@[simp] theorem spInitBody_key : (spInitBody s).key = s.key := by cases s; rfl
@[simp] theorem spInitBody_blk : (spInitBody s).blk = s.blk := by cases s; rfl
@[simp] theorem spInitBody_rkey : (spInitBody s).rkey = s.rkey := by cases s; rfl
@[simp] theorem spInitBody_a : (spInitBody s).a = s.a := by cases s; rfl
@[simp] theorem spInitBody_b : (spInitBody s).b = s.b := by cases s; rfl
@[simp] theorem spInitBody_nonce : (spInitBody s).nonce = s.nonce := by cases s; rfl
@[simp] theorem spInitBody_tweak : (spInitBody s).tweak = s.tweak := by cases s; rfl
@[simp] theorem spInitBody_varL : (spInitBody s).varL = s.varL := by cases s; rfl
@[simp] theorem spInitBody_mixReady : (spInitBody s).mixReady = s.mixReady := by cases s; rfl
@[simp] theorem spInitBody_iter : (spInitBody s).iter = s.iter := by cases s; rfl
@[simp] theorem spInitBody_msglen : (spInitBody s).msglen = s.msglen := by cases s; rfl
@[simp] theorem spInitBody_pend : (spInitBody s).pend = s.pend := by cases s; rfl
@[simp] theorem spInitBody_busy : (spInitBody s).busy = s.busy := by cases s; rfl
@[simp] theorem spInitBody_done : (spInitBody s).done = s.done := by cases s; rfl
@[simp] theorem spInitBody_err : (spInitBody s).err = s.err := by cases s; rfl
@[simp] theorem spInitBody_ecode : (spInitBody s).ecode = s.ecode := by cases s; rfl
@[simp] theorem spInitBody_ieDone : (spInitBody s).ieDone = s.ieDone := by cases s; rfl
@[simp] theorem spInitBody_ieErr : (spInitBody s).ieErr = s.ieErr := by cases s; rfl
@[simp] theorem spInitBody_kReq : (spInitBody s).kReq = s.kReq := by cases s; rfl
@[simp] theorem spInitBody_keccakAnswers : (spInitBody s).keccakAnswers = s.keccakAnswers := by cases s; rfl
@[simp] theorem spInitBody_reply : (spInitBody s).reply = s.reply := by cases s; rfl
@[simp] theorem spInitBody_draws : (spInitBody s).draws = s.draws := by cases s; rfl
@[simp] theorem spInitBody_inputs : (spInitBody s).inputs = s.inputs := by cases s; rfl

/-! ### mixInitBody -/

@[simp] theorem mixInitBody_state (v : BitVec 8) : (mixInitBody v s).state = s.state := by cases s; rfl
@[simp] theorem mixInitBody_sp (v : BitVec 8) : (mixInitBody v s).sp = s.sp := by cases s; rfl
@[simp] theorem mixInitBody_rk (v : BitVec 8) : (mixInitBody v s).rk = s.rk := by cases s; rfl
@[simp] theorem mixInitBody_key (v : BitVec 8) : (mixInitBody v s).key = s.key := by cases s; rfl
@[simp] theorem mixInitBody_blk (v : BitVec 8) : (mixInitBody v s).blk = s.blk := by cases s; rfl
@[simp] theorem mixInitBody_rkey (v : BitVec 8) : (mixInitBody v s).rkey = s.rkey := by cases s; rfl
@[simp] theorem mixInitBody_a (v : BitVec 8) : (mixInitBody v s).a = blockFrom s.state 0 ^^^ blockFrom s.state 32 := by cases s; rfl
@[simp] theorem mixInitBody_b (v : BitVec 8) : (mixInitBody v s).b = blockFrom s.state 16 ^^^ blockFrom s.state 48 := by cases s; rfl
@[simp] theorem mixInitBody_nonce (v : BitVec 8) : (mixInitBody v s).nonce = s.nonce := by cases s; rfl
@[simp] theorem mixInitBody_tweak (v : BitVec 8) : (mixInitBody v s).tweak = tweakOf v s.state s.nonce := by cases s; rfl
@[simp] theorem mixInitBody_varL (v : BitVec 8) : (mixInitBody v s).varL = v := by cases s; rfl
@[simp] theorem mixInitBody_mixReady (v : BitVec 8) : (mixInitBody v s).mixReady = true := by cases s; rfl
@[simp] theorem mixInitBody_iter (v : BitVec 8) : (mixInitBody v s).iter = 0 := by cases s; rfl
@[simp] theorem mixInitBody_msglen (v : BitVec 8) : (mixInitBody v s).msglen = s.msglen := by cases s; rfl
@[simp] theorem mixInitBody_pend (v : BitVec 8) : (mixInitBody v s).pend = s.pend := by cases s; rfl
@[simp] theorem mixInitBody_busy (v : BitVec 8) : (mixInitBody v s).busy = s.busy := by cases s; rfl
@[simp] theorem mixInitBody_done (v : BitVec 8) : (mixInitBody v s).done = s.done := by cases s; rfl
@[simp] theorem mixInitBody_err (v : BitVec 8) : (mixInitBody v s).err = s.err := by cases s; rfl
@[simp] theorem mixInitBody_ecode (v : BitVec 8) : (mixInitBody v s).ecode = s.ecode := by cases s; rfl
@[simp] theorem mixInitBody_ieDone (v : BitVec 8) : (mixInitBody v s).ieDone = s.ieDone := by cases s; rfl
@[simp] theorem mixInitBody_ieErr (v : BitVec 8) : (mixInitBody v s).ieErr = s.ieErr := by cases s; rfl
@[simp] theorem mixInitBody_kReq (v : BitVec 8) : (mixInitBody v s).kReq = s.kReq := by cases s; rfl
@[simp] theorem mixInitBody_keccakAnswers (v : BitVec 8) : (mixInitBody v s).keccakAnswers = s.keccakAnswers := by cases s; rfl
@[simp] theorem mixInitBody_reply (v : BitVec 8) : (mixInitBody v s).reply = s.reply := by cases s; rfl
@[simp] theorem mixInitBody_draws (v : BitVec 8) : (mixInitBody v s).draws = s.draws := by cases s; rfl
@[simp] theorem mixInitBody_inputs (v : BitVec 8) : (mixInitBody v s).inputs = s.inputs := by cases s; rfl

/-! ### mixIteration -/

@[simp] theorem mixIteration_state (e : Bool) : (mixIteration e s).state = s.state := by cases s; rfl
@[simp] theorem mixIteration_rk (e : Bool) : (mixIteration e s).rk = s.rk := by cases s; rfl
@[simp] theorem mixIteration_key (e : Bool) : (mixIteration e s).key = s.key := by cases s; rfl
@[simp] theorem mixIteration_blk (e : Bool) : (mixIteration e s).blk = s.blk := by cases s; rfl
@[simp] theorem mixIteration_rkey (e : Bool) : (mixIteration e s).rkey = s.rkey := by cases s; rfl
@[simp] theorem mixIteration_nonce (e : Bool) : (mixIteration e s).nonce = s.nonce := by cases s; rfl
@[simp] theorem mixIteration_tweak (e : Bool) : (mixIteration e s).tweak = s.tweak := by cases s; rfl
@[simp] theorem mixIteration_varL (e : Bool) : (mixIteration e s).varL = s.varL := by cases s; rfl
@[simp] theorem mixIteration_mixReady (e : Bool) : (mixIteration e s).mixReady = s.mixReady := by cases s; rfl
@[simp] theorem mixIteration_iter (e : Bool) : (mixIteration e s).iter = s.iter + 1 := by cases s; rfl
@[simp] theorem mixIteration_msglen (e : Bool) : (mixIteration e s).msglen = s.msglen := by cases s; rfl
@[simp] theorem mixIteration_pend (e : Bool) : (mixIteration e s).pend = s.pend := by cases s; rfl
@[simp] theorem mixIteration_busy (e : Bool) : (mixIteration e s).busy = s.busy := by cases s; rfl
@[simp] theorem mixIteration_done (e : Bool) : (mixIteration e s).done = s.done := by cases s; rfl
@[simp] theorem mixIteration_err (e : Bool) : (mixIteration e s).err = s.err := by cases s; rfl
@[simp] theorem mixIteration_ecode (e : Bool) : (mixIteration e s).ecode = s.ecode := by cases s; rfl
@[simp] theorem mixIteration_ieDone (e : Bool) : (mixIteration e s).ieDone = s.ieDone := by cases s; rfl
@[simp] theorem mixIteration_ieErr (e : Bool) : (mixIteration e s).ieErr = s.ieErr := by cases s; rfl
@[simp] theorem mixIteration_kReq (e : Bool) : (mixIteration e s).kReq = s.kReq := by cases s; rfl
@[simp] theorem mixIteration_keccakAnswers (e : Bool) : (mixIteration e s).keccakAnswers = s.keccakAnswers := by cases s; rfl
@[simp] theorem mixIteration_reply (e : Bool) : (mixIteration e s).reply = s.reply := by cases s; rfl
@[simp] theorem mixIteration_draws (e : Bool) : (mixIteration e s).draws = s.draws := by cases s; rfl
@[simp] theorem mixIteration_inputs (e : Bool) : (mixIteration e s).inputs = s.inputs := by cases s; rfl

/-! ### compressBody, through `compressWith`, so that the kernel never unfolds the loop -/

@[simp] theorem compressWith_state (rks : BitVec 1280) (r : Memory × List Block) :
    (compressWith rks r s).state = putBlocks s.state r.2 := rfl
@[simp] theorem compressWith_sp (rks : BitVec 1280) (r : Memory × List Block) :
    (compressWith rks r s).sp = r.1 := rfl
@[simp] theorem compressWith_rk (rks : BitVec 1280) (r : Memory × List Block) :
    (compressWith rks r s).rk = rks := rfl
@[simp] theorem compressWith_key (rks : BitVec 1280) (r : Memory × List Block) :
    (compressWith rks r s).key = s.key := rfl
@[simp] theorem compressWith_blk (rks : BitVec 1280) (r : Memory × List Block) :
    (compressWith rks r s).blk = s.blk := rfl
@[simp] theorem compressWith_rkey (rks : BitVec 1280) (r : Memory × List Block) :
    (compressWith rks r s).rkey = s.rkey := rfl
@[simp] theorem compressWith_a (rks : BitVec 1280) (r : Memory × List Block) :
    (compressWith rks r s).a = s.a := rfl
@[simp] theorem compressWith_b (rks : BitVec 1280) (r : Memory × List Block) :
    (compressWith rks r s).b = s.b := rfl
@[simp] theorem compressWith_nonce (rks : BitVec 1280) (r : Memory × List Block) :
    (compressWith rks r s).nonce = s.nonce := rfl
@[simp] theorem compressWith_tweak (rks : BitVec 1280) (r : Memory × List Block) :
    (compressWith rks r s).tweak = s.tweak := rfl
@[simp] theorem compressWith_varL (rks : BitVec 1280) (r : Memory × List Block) :
    (compressWith rks r s).varL = s.varL := rfl
@[simp] theorem compressWith_mixReady (rks : BitVec 1280) (r : Memory × List Block) :
    (compressWith rks r s).mixReady = s.mixReady := rfl
@[simp] theorem compressWith_iter (rks : BitVec 1280) (r : Memory × List Block) :
    (compressWith rks r s).iter = s.iter := rfl
@[simp] theorem compressWith_msglen (rks : BitVec 1280) (r : Memory × List Block) :
    (compressWith rks r s).msglen = s.msglen := rfl
@[simp] theorem compressWith_pend (rks : BitVec 1280) (r : Memory × List Block) :
    (compressWith rks r s).pend = s.pend := rfl
@[simp] theorem compressWith_busy (rks : BitVec 1280) (r : Memory × List Block) :
    (compressWith rks r s).busy = s.busy := rfl
@[simp] theorem compressWith_done (rks : BitVec 1280) (r : Memory × List Block) :
    (compressWith rks r s).done = s.done := rfl
@[simp] theorem compressWith_err (rks : BitVec 1280) (r : Memory × List Block) :
    (compressWith rks r s).err = s.err := rfl
@[simp] theorem compressWith_ecode (rks : BitVec 1280) (r : Memory × List Block) :
    (compressWith rks r s).ecode = s.ecode := rfl
@[simp] theorem compressWith_ieDone (rks : BitVec 1280) (r : Memory × List Block) :
    (compressWith rks r s).ieDone = s.ieDone := rfl
@[simp] theorem compressWith_ieErr (rks : BitVec 1280) (r : Memory × List Block) :
    (compressWith rks r s).ieErr = s.ieErr := rfl
@[simp] theorem compressWith_kReq (rks : BitVec 1280) (r : Memory × List Block) :
    (compressWith rks r s).kReq = s.kReq := rfl
@[simp] theorem compressWith_keccakAnswers (rks : BitVec 1280) (r : Memory × List Block) :
    (compressWith rks r s).keccakAnswers = s.keccakAnswers := rfl
@[simp] theorem compressWith_reply (rks : BitVec 1280) (r : Memory × List Block) :
    (compressWith rks r s).reply = s.reply := rfl
@[simp] theorem compressWith_draws (rks : BitVec 1280) (r : Memory × List Block) :
    (compressWith rks r s).draws = s.draws := rfl
@[simp] theorem compressWith_inputs (rks : BitVec 1280) (r : Memory × List Block) :
    (compressWith rks r s).inputs = s.inputs := rfl

@[simp] theorem compressBody_state : (compressBody s).state =
    putBlocks s.state
      (compressLoop (expandKey (s.state.extractLsb' 256 256)) chunkCount 0 (seedBlocks s.state) s.sp).2 := by
  rw [compressBody, compressWith_state]
@[simp] theorem compressBody_sp : (compressBody s).sp =
    (compressLoop (expandKey (s.state.extractLsb' 256 256)) chunkCount 0 (seedBlocks s.state) s.sp).1 := by
  rw [compressBody, compressWith_sp]
@[simp] theorem compressBody_rk : (compressBody s).rk = expandKey (s.state.extractLsb' 256 256) := by rw [compressBody, compressWith_rk]
@[simp] theorem compressBody_key : (compressBody s).key = s.key := by rw [compressBody, compressWith_key]
@[simp] theorem compressBody_blk : (compressBody s).blk = s.blk := by rw [compressBody, compressWith_blk]
@[simp] theorem compressBody_rkey : (compressBody s).rkey = s.rkey := by rw [compressBody, compressWith_rkey]
@[simp] theorem compressBody_a : (compressBody s).a = s.a := by rw [compressBody, compressWith_a]
@[simp] theorem compressBody_b : (compressBody s).b = s.b := by rw [compressBody, compressWith_b]
@[simp] theorem compressBody_nonce : (compressBody s).nonce = s.nonce := by rw [compressBody, compressWith_nonce]
@[simp] theorem compressBody_tweak : (compressBody s).tweak = s.tweak := by rw [compressBody, compressWith_tweak]
@[simp] theorem compressBody_varL : (compressBody s).varL = s.varL := by rw [compressBody, compressWith_varL]
@[simp] theorem compressBody_mixReady : (compressBody s).mixReady = s.mixReady := by rw [compressBody, compressWith_mixReady]
@[simp] theorem compressBody_iter : (compressBody s).iter = s.iter := by rw [compressBody, compressWith_iter]
@[simp] theorem compressBody_msglen : (compressBody s).msglen = s.msglen := by rw [compressBody, compressWith_msglen]
@[simp] theorem compressBody_pend : (compressBody s).pend = s.pend := by rw [compressBody, compressWith_pend]
@[simp] theorem compressBody_busy : (compressBody s).busy = s.busy := by rw [compressBody, compressWith_busy]
@[simp] theorem compressBody_done : (compressBody s).done = s.done := by rw [compressBody, compressWith_done]
@[simp] theorem compressBody_err : (compressBody s).err = s.err := by rw [compressBody, compressWith_err]
@[simp] theorem compressBody_ecode : (compressBody s).ecode = s.ecode := by rw [compressBody, compressWith_ecode]
@[simp] theorem compressBody_ieDone : (compressBody s).ieDone = s.ieDone := by rw [compressBody, compressWith_ieDone]
@[simp] theorem compressBody_ieErr : (compressBody s).ieErr = s.ieErr := by rw [compressBody, compressWith_ieErr]
@[simp] theorem compressBody_kReq : (compressBody s).kReq = s.kReq := by rw [compressBody, compressWith_kReq]
@[simp] theorem compressBody_keccakAnswers : (compressBody s).keccakAnswers = s.keccakAnswers := by rw [compressBody, compressWith_keccakAnswers]
@[simp] theorem compressBody_reply : (compressBody s).reply = s.reply := by rw [compressBody, compressWith_reply]
@[simp] theorem compressBody_draws : (compressBody s).draws = s.draws := by rw [compressBody, compressWith_draws]
@[simp] theorem compressBody_inputs : (compressBody s).inputs = s.inputs := by rw [compressBody, compressWith_inputs]

end Sys2Proof.Machine
end

