-- ==== Sys2Proof/Laws/Commands.lean ====
section
/-! SUPPORT. What the loops of the commands keep: the canonical form of SP, the lengths of the 128-byte temporaries, and
every register outside a loop's own. -/

namespace Sys2Proof.Machine

/-! ### Scratchpad initializer -/

@[simp] theorem length_seedBlocks (st : BitVec 1600) : (seedBlocks st).length = 8 := by
  rw [seedBlocks, List.length_map, List.length_range]

@[simp] theorem length_encryptText (rks : BitVec 1280) (text : List Block) :
    (encryptText rks text).length = text.length := by
  rw [encryptText, List.length_map]

/-- Sub-block j of the encrypted text (spec/41 R140). -/
theorem getD_encryptText (rks : BitVec 1280) (text : List Block) (j : Nat) (hj : j < text.length) :
    (encryptText rks text).getD j 0 = encryptRounds (text.getD j 0) rks := by
  simp [encryptText, hj]

/-- Sub-block j of the seed is STATE[64+16j : 80+16j) (spec/41 R140). -/
theorem getD_seedBlocks (st : BitVec 1600) (j : Nat) (hj : j < 8) : (seedBlocks st).getD j 0 = blockFrom st (64 + 16 * j) := by
  simp [seedBlocks, hj]

/-- The loop of SP_INIT keeps the canonical form. -/
theorem wf_spInitLoop (rks : BitVec 1280) (count n : Nat) (text : List Block) {m : Memory}
    (h : Memory.wf m = true) (ht : text.length = 8) (hn : 128 * (n + count) ≤ spSize) :
    Memory.wf (spInitLoop rks count n text m) = true := by
  induction count generalizing n text m with
  | zero => exact h
  | succ count ih =>
    refine ih _ _ (Memory.wf_writeBlocks h _ _ ?_) (by simp [ht]) (by omega)
    simp only [length_encryptText, ht]; omega

/-- The chunks SP_INIT has still to write do not touch the ones below. -/
theorem read_spInitLoop_low (rks : BitVec 1280) (count n : Nat) (text : List Block) {m : Memory} (h : Memory.wf m = true) (ht : text.length = 8)
    (hn : 128 * (n + count) ≤ spSize) (a : Nat) (ha : a < 128 * n) :
    Memory.read (spInitLoop rks count n text m) a = Memory.read m a := by
  induction count generalizing n text m with
  | zero => rfl
  | succ c ih =>
    simp only [spInitLoop]
    have hl : (encryptText rks text).length = 8 := by simp [ht]
    rw [ih (n+1) _ (Memory.wf_writeBlocks h _ _ (by omega)) hl (by omega) (by omega), Memory.read_writeBlocks h _ _ _ (by omega), if_neg (by omega)]

/-- Sub-block j of the k-th chunk SP_INIT writes is the text's, encrypted k + 1 times (spec/41 R140). -/
theorem cell_spInitLoop (rks : BitVec 1280) (count n : Nat) (text : List Block) {m : Memory} (h : Memory.wf m = true) (ht : text.length = 8)
    (hn : 128 * (n + count) ≤ spSize) (k j : Nat) (hk : k < count) (hj : j < 8) :
    Memory.readCell (spInitLoop rks count n text m) (128 * (n + k) + 16 * j) = Nat.iterate (fun x => encryptRounds x rks) (k + 1) (text.getD j 0) := by
  induction count generalizing n text m k with
  | zero => omega
  | succ c ih =>
    simp only [spInitLoop]
    have hl : (encryptText rks text).length = 8 := by simp [ht]
    have hw := Memory.wf_writeBlocks h (128 * n) (encryptText rks text) (by omega)
    cases k with
    | zero =>
      refine eq_of_byteAt 16 rfl fun i hi => ?_
      rw [Memory.byteAt_readCell _ _ _ hi, read_spInitLoop_low _ _ _ _ hw hl (by omega) _ (by omega),
        Memory.read_writeBlocks h _ _ _ (by omega), if_pos (by omega)]
      have h1 : (128 * (n + 0) + 16 * j + i - 128 * n) / 16 = j := by omega
      have h2 : (128 * (n + 0) + 16 * j + i - 128 * n) % 16 = i := by omega
      rw [h1, h2, getD_encryptText _ _ _ (by omega)]; rfl
    | succ k =>
      have := ih (n+1) _ hw hl (by omega) k (by omega)
      rw [show n + 1 + k = n + (k+1) by omega] at this
      rw [this, getD_encryptText _ _ _ (by omega), Function.iterate_succ_apply (n := k + 1)]

/-- SP_INIT writes RK and SP only (spec/41 R140). Stated over a general loop outcome, so that the kernel never unfolds
the loop. -/
theorem spInitBody_frame (s : State) :
    let t := spInitBody s
    t = { s with rk := t.rk, sp := t.sp } := by
  have h : ∀ (rks : BitVec 1280) (m : Memory),
      ({ s with rk := rks, sp := m } : State) = { s with rk := rks, sp := m } := fun _ _ => rfl
  simp only [spInitBody_rk, spInitBody_sp]
  exact h _ _

/-- SP_INIT keeps SP in canonical form. -/
theorem wf_spInitBody {s : State} (h : Memory.wf s.sp = true) : Memory.wf (spInitBody s).sp = true := by
  rw [spInitBody_sp]
  refine wf_spInitLoop _ _ _ _ h (length_seedBlocks _) ?_
  rw [chunkCount_eq, spSize_eq]

/-! ### Mixer -/

theorem wf_tweakByte11 {m : Memory} (h : Memory.wf m = true) (a : Nat) (ha : a + 16 ≤ spSize) :
    Memory.wf (tweakByte11 m a) = true := Memory.wf_write h (by omega) _

theorem wf_tweakLane1 {m : Memory} (h : Memory.wf m = true) (a : Nat) (tw : Lane) (n : Nat) (hn : n ≤ 8)
    (ha : a + 16 ≤ spSize) : Memory.wf (tweakLane1 m a tw n) = true := by
  induction n with
  | zero => exact h
  | succ n ih => exact Memory.wf_write (ih (by omega)) (by omega) _

/-- Step 5 of an iteration, byte by byte (spec/42 R155). -/
theorem read_tweakByte11 {m : Memory} (h : Memory.wf m = true) (a x : Nat) :
    Memory.read (tweakByte11 m a) x =
      if x = a + 11 then Memory.read m x ^^^ tweakXor (Memory.read m x) else Memory.read m x := by
  rw [tweakByte11, Memory.read_write h]
  split
  · rename_i hx; rw [hx]
  · rfl

/-- Step 12 of an iteration, byte by byte (spec/42 R155). -/
theorem read_tweakLane1 {m : Memory} (h : Memory.wf m = true) (a : Nat) (tw : Lane) (n x : Nat) (hn : n ≤ 8) (ha : a + 16 ≤ spSize) :
    Memory.read (tweakLane1 m a tw n) x =
      if a + 8 ≤ x ∧ x < a + 8 + n then Memory.read m x ^^^ byteAt tw (x - (a + 8)) else Memory.read m x := by
  induction n with
  | zero => rw [if_neg (by omega)]; rfl
  | succ n ih =>
    simp only [tweakLane1]
    rw [Memory.read_write (wf_tweakLane1 h a tw n (by omega) ha), ih (by omega)]
    by_cases hx : x = a + 8 + n
    · subst hx
      rw [if_pos rfl, if_pos (by omega), Nat.add_sub_cancel_left]
      have : Memory.read (tweakLane1 m a tw n) (a + 8 + n) = Memory.read m (a + 8 + n) := by
        rw [ih (by omega), if_neg (by omega)]
      rw [this]
    · rw [if_neg hx]
      by_cases h1 : a + 8 ≤ x ∧ x < a + 8 + n
      · rw [if_pos h1, if_pos (by omega)]
      · rw [if_neg h1, if_neg (by omega)]

/-- One iteration keeps SP in canonical form. -/
theorem wf_mixIteration {s : State} (h : Memory.wf s.sp = true) (e : Bool) : Memory.wf (mixIteration e s).sp = true := by
  have h3 := Memory.wf_writeCell h (spAddr s.a) (s.b ^^^ aesRound (Memory.readCell s.sp (spAddr s.a)) s.a) (spAddr_le _)
  cases e
  · simp only [mixIteration, Bool.false_eq_true, if_false]
    exact Memory.wf_writeCell h3 _ _ (spAddr_le _)
  · simp only [mixIteration, if_true]
    have h5 := wf_tweakByte11 h3 (spAddr s.a) (spAddr_le _)
    refine wf_tweakLane1 ?_ _ _ 8 (Nat.le_refl 8) (spAddr_le _)
    exact Memory.wf_writeCell h5 _ _ (spAddr_le _)

/-- Whatever an iteration keeps, the loop of MIX_RUN keeps. -/
theorem mixLoop_keeps {P : State → Prop} (hP : ∀ e s, P s → P (mixIteration e s)) (fuel : Nat) {s : State} (h : P s) :
    P (mixLoop fuel s) := by
  induction fuel generalizing s with
  | zero => exact h
  | succ fuel ih =>
    simp only [mixLoop]
    split
    · exact ih (hP _ _ h)
    · exact h

/-- MIX_RUN keeps SP in canonical form. -/
theorem wf_mixRunBody {s : State} (h : Memory.wf s.sp = true) : Memory.wf (mixRunBody s).sp = true :=
  mixLoop_keeps (P := fun t => Memory.wf t.sp = true) (fun e _ ht => wf_mixIteration ht e) _ h

/-- ITER never passes 2^19 in MIX_RUN (spec/42 R157). -/
theorem mixLoop_iter_le (fuel : Nat) {s : State} (h : s.iter.toNat ≤ mixIterations) :
    (mixLoop fuel s).iter.toNat ≤ mixIterations := by
  induction fuel generalizing s with
  | zero => exact h
  | succ fuel ih =>
    simp only [mixLoop]
    split
    · refine ih ?_
      have := mixIterations_eq
      rw [mixIteration_iter, BitVec.toNat_add, show BitVec.toNat (1 : BitVec 20) = 1 from rfl]
      omega
    · exact h

/-- An iteration touches SP, A, B and ITER only (spec/42 R155). -/
theorem mixIteration_frame (e : Bool) (s : State) :
    let t := mixIteration e s
    t = { s with sp := t.sp, a := t.a, b := t.b, iter := t.iter } := by
  cases s; rfl

/-- MIX_RUN touches SP, A, B and ITER only (spec/42 R157). -/
theorem mixRunBody_frame (s : State) :
    let t := mixRunBody s
    t = { s with sp := t.sp, a := t.a, b := t.b, iter := t.iter } := by
  refine mixLoop_keeps (P := fun t => t = { s with sp := t.sp, a := t.a, b := t.b, iter := t.iter }) ?_ mixIterations ?_
  · intro e t ht
    have h := mixIteration_frame e t
    simp only at h
    rw [h]
    rw [ht]
  · cases s; rfl

/-! ### Compressor -/

theorem compressChunk_wf_length (rks : BitVec 1280) (a : Nat) (xs : List Block) {m : Memory}
    (h : Memory.wf m = true) (ha : a + 16 * xs.length ≤ spSize) :
    Memory.wf (compressChunk rks a xs m).1 = true ∧ (compressChunk rks a xs m).2.length = xs.length := by
  induction xs generalizing a m with
  | nil => exact ⟨h, rfl⟩
  | cons x rest ih =>
    simp only [List.length_cons] at ha ⊢
    have := ih (a + 16) (Memory.wf_writeCell h a (encryptRounds (Memory.readCell m a ^^^ x) rks) (by omega)) (by omega)
    exact ⟨this.1, by simp only [compressChunk, List.length_cons, this.2]⟩

theorem wf_compressLoop (rks : BitVec 1280) (count n : Nat) (xs : List Block) {m : Memory}
    (h : Memory.wf m = true) (hx : xs.length = 8) (hn : 128 * (n + count) ≤ spSize) :
    Memory.wf (compressLoop rks count n xs m).1 = true ∧ (compressLoop rks count n xs m).2.length = 8 := by
  induction count generalizing n xs m with
  | zero => exact ⟨h, hx⟩
  | succ count ih =>
    have hc := compressChunk_wf_length rks (128 * n) xs h (by omega)
    exact ih (n + 1) _ hc.1 (hc.2.trans hx) (by omega)

/-- The inner loop of COMPRESS touches its sub-blocks only. -/
theorem read_compressChunk_outside (rks : BitVec 1280) (a : Nat) (xs : List Block) {m : Memory} (h : Memory.wf m = true)
    (ha : a + 16 * xs.length ≤ spSize) (y : Nat) (hy : y < a ∨ a + 16 * xs.length ≤ y) :
    Memory.read (compressChunk rks a xs m).1 y = Memory.read m y := by
  induction xs generalizing a m with
  | nil => rfl
  | cons x rest ih =>
    simp only [List.length_cons] at ha hy
    simp only [compressChunk]
    rw [ih (a + 16) (Memory.wf_writeCell h a _ (by omega)) (by omega) (by omega),
      Memory.read_writeCell h _ _ _ (by omega), if_neg (by omega)]

/-- Each sub-block of a chunk takes the encryption of itself XOR the carry, and is the new carry (spec/43 R180). -/
theorem compressChunk_cell (rks : BitVec 1280) (a : Nat) (xs : List Block) {m : Memory} (h : Memory.wf m = true)
    (ha : a + 16 * xs.length ≤ spSize) (j : Nat) (hj : j < xs.length) :
    Memory.readCell (compressChunk rks a xs m).1 (a + 16 * j) =
        encryptRounds (Memory.readCell m (a + 16 * j) ^^^ xs.getD j 0) rks ∧
      (compressChunk rks a xs m).2.getD j 0 = Memory.readCell (compressChunk rks a xs m).1 (a + 16 * j) := by
  induction xs generalizing a m j with
  | nil => cases hj
  | cons x rest ih =>
    simp only [List.length_cons] at ha hj
    simp only [compressChunk]
    have hw := Memory.wf_writeCell h a (encryptRounds (Memory.readCell m a ^^^ x) rks) (by omega)
    cases j with
    | zero =>
      have e : Memory.readCell (compressChunk rks (a + 16) rest (Memory.writeCell m a (encryptRounds (Memory.readCell m a ^^^ x) rks))).1 (a + 16 * 0) =
          encryptRounds (Memory.readCell m a ^^^ x) rks := by
        refine (Memory.readCell_congr fun i hi => ?_).trans (Memory.readCell_writeCell_same h a _ (by omega))
        exact read_compressChunk_outside rks _ _ hw (by omega) _ (by omega)
      exact ⟨e, e.symm⟩
    | succ j =>
      have := ih (a + 16) hw (by omega) j (by omega)
      rw [show a + 16 + 16 * j = a + 16 * (j + 1) by omega] at this
      rw [Memory.readCell_writeCell_other h _ _ _ (by omega) (by omega)] at this
      exact this

/-- The chunks COMPRESS has still to fold do not touch the ones below. -/
theorem read_compressLoop_low (rks : BitVec 1280) (count n : Nat) (xs : List Block) {m : Memory} (h : Memory.wf m = true) (hx : xs.length = 8)
    (hn : 128 * (n + count) ≤ spSize) (y : Nat) (hy : y < 128 * n) :
    Memory.read (compressLoop rks count n xs m).1 y = Memory.read m y := by
  induction count generalizing n xs m with
  | zero => rfl
  | succ c ih =>
    have hc := compressChunk_wf_length rks (128 * n) xs h (by omega)
    simp only [compressLoop]
    rw [ih (n + 1) _ hc.1 (hc.2.trans hx) (by omega) (by omega), read_compressChunk_outside rks _ _ h (by omega) _ (by omega)]

/-- Each cell takes the encryption of itself XOR the cell one chunk before, the first chunk of the carry it starts from,
and the last chunk is the carry it ends with (spec/43 R180). -/
theorem compressLoop_cell (rks : BitVec 1280) (count n : Nat) (xs : List Block) {m : Memory} (h : Memory.wf m = true) (hx : xs.length = 8)
    (hn : 128 * (n + count) ≤ spSize) (j : Nat) (hj : j < 8) (k : Nat) (hk : k < count) :
    Memory.readCell (compressLoop rks count n xs m).1 (128 * (n + k) + 16 * j) =
      encryptRounds (Memory.readCell m (128 * (n + k) + 16 * j) ^^^
        (if k = 0 then xs.getD j 0 else Memory.readCell (compressLoop rks count n xs m).1 (128 * (n + k - 1) + 16 * j))) rks ∧
    (k + 1 = count → (compressLoop rks count n xs m).2.getD j 0 = Memory.readCell (compressLoop rks count n xs m).1 (128 * (n + k) + 16 * j)) := by
  induction count generalizing n xs m k with
  | zero => omega
  | succ c ih =>
    have hc := compressChunk_wf_length rks (128 * n) xs h (by omega)
    have hcell := compressChunk_cell rks (128 * n) xs h (by omega) j (by omega)
    have hlow : Memory.readCell (compressLoop rks c (n + 1) (compressChunk rks (128 * n) xs m).2 (compressChunk rks (128 * n) xs m).1).1 (128 * n + 16 * j) =
        Memory.readCell (compressChunk rks (128 * n) xs m).1 (128 * n + 16 * j) :=
      Memory.readCell_congr fun i hi => read_compressLoop_low rks c (n + 1) _ hc.1 (hc.2.trans hx) (by omega) _ (by omega)
    simp only [compressLoop]
    cases k with
    | zero =>
      rw [if_pos rfl, show n + 0 = n from rfl, hlow]
      refine ⟨hcell.1, fun h0 => ?_⟩
      have : c = 0 := by omega
      subst this
      exact hcell.2
    | succ k =>
      have := ih (n + 1) _ hc.1 (hc.2.trans hx) (by omega) k (by omega)
      rw [show n + 1 + k = n + (k + 1) by omega] at this
      refine ⟨?_, fun h0 => this.2 (by omega)⟩
      rw [if_neg (by omega), this.1]
      have hr : Memory.readCell (compressChunk rks (128 * n) xs m).1 (128 * (n + (k + 1)) + 16 * j) = Memory.readCell m (128 * (n + (k + 1)) + 16 * j) :=
        Memory.readCell_congr fun i hi => read_compressChunk_outside rks _ _ h (by omega) _ (by omega)
      rw [hr]
      congr 2
      by_cases h0 : k = 0
      · subst h0
        rw [if_pos rfl, show n + (0 + 1) - 1 = n by omega, hlow, hcell.2]
      · rw [if_neg h0]

/-- Sub-block j of the folded STATE (spec/43 R180). -/
theorem blockFrom_putBlocks (st : BitVec 1600) (xs : List Block) (j : Nat) (hj : j < 8) :
    blockFrom (putBlocks st xs) (64 + 16 * j) = xs.getD j 0 := by
  apply BitVec.eq_of_getLsbD_eq
  intro k hk
  rw [getLsbD_blockFrom, putBlocks, getLsbD_setBits, if_pos (by omega), getLsbD_pack _ _ _ (by omega)]
  have e1 : (8 * (64 + 16 * j) + k - 8 * 64) / 128 = j := by omega
  have e2 : (8 * (64 + 16 * j) + k - 8 * 64) % 128 = k := by omega
  rw [e1, e2]
  have e3 : 8 * (64 + 16 * j) + k - 8 * 64 < 1024 := by omega
  simp [hk, e3]

/-- COMPRESS leaves the rest of STATE alone (spec/43 R180). -/
theorem byteAt_putBlocks_outside (st : BitVec 1600) (xs : List Block) (i : Nat) (hi : i < 64 ∨ 192 ≤ i) :
    byteAt (putBlocks st xs) i = byteAt st i := by
  apply BitVec.eq_of_getLsbD_eq
  intro k hk
  rw [getLsbD_byteAt, getLsbD_byteAt, putBlocks, getLsbD_setBits, if_neg (by omega)]

/-- COMPRESS writes RK, SP and STATE only (spec/43 R180). -/
theorem compressBody_frame (s : State) :
    let t := compressBody s
    t = { s with rk := t.rk, sp := t.sp, state := t.state } := by
  have h : ∀ rks r, compressWith rks r s =
      { s with rk := (compressWith rks r s).rk, sp := (compressWith rks r s).sp, state := (compressWith rks r s).state } :=
    fun _ _ => rfl
  exact h _ _

/-- COMPRESS keeps SP in canonical form. -/
theorem wf_compressBody {s : State} (h : Memory.wf s.sp = true) : Memory.wf (compressBody s).sp = true := by
  have hn : 128 * (0 + chunkCount) ≤ spSize := by rw [chunkCount_eq, spSize_eq]
  have hw := (wf_compressLoop (expandKey (s.state.extractLsb' 256 256)) chunkCount 0 _ h
    (length_seedBlocks s.state) hn).1
  rw [compressBody_sp]
  exact hw

/-- HASH keeps SP in canonical form. -/
theorem wf_hashBody (v : BitVec 8) {s : State} (h : Memory.wf s.sp = true) : Memory.wf (hashBody v s).sp = true := by
  rw [hashBody, kpermBody_sp, hashStages]
  refine wf_compressBody (wf_mixRunBody ?_)
  rw [mixInitBody_sp]
  exact wf_spInitBody h

/-! ### The bodies do not look at the completion flags -/

@[simp] theorem complete_complete (s : State) : s.complete.complete = s.complete := rfl

theorem mixInitBody_complete (v : BitVec 8) (s : State) : mixInitBody v s.complete = (mixInitBody v s).complete := rfl

theorem kpermBody_complete (s : State) : kpermBody s.complete = (kpermBody s).complete := rfl

theorem mixIteration_complete (e : Bool) (s : State) : mixIteration e s.complete = (mixIteration e s).complete := by
  cases s; rfl

theorem mixLoop_complete (fuel : Nat) (s : State) : mixLoop fuel s.complete = (mixLoop fuel s).complete := by
  induction fuel generalizing s with
  | zero => rfl
  | succ fuel ih =>
    simp only [mixLoop, State.complete_iter, State.complete_varL, mixIteration_complete, ih]
    split <;> rfl

theorem mixRunBody_complete (s : State) : mixRunBody s.complete = (mixRunBody s).complete := mixLoop_complete _ s

theorem spInitBody_complete (s : State) : spInitBody s.complete = (spInitBody s).complete := by
  have h : ∀ (rks : BitVec 1280) (m : Memory),
      ({ s.complete with rk := rks, sp := m } : State) = ({ s with rk := rks, sp := m } : State).complete :=
    fun _ _ => rfl
  simp only [spInitBody, State.complete_state, State.complete_sp]
  exact h _ _

theorem compressBody_complete (s : State) : compressBody s.complete = (compressBody s).complete := by
  have h : ∀ rks r, compressWith rks r s.complete = (compressWith rks r s).complete := fun _ _ => rfl
  simp only [compressBody, State.complete_state, State.complete_sp]
  exact h _ _

/-- HASH where the Keccak unit answers, without a reduction that would unfold its loops. -/
theorem execHash_answers (v : BitVec 8) {s : State} (h : s.keccakAnswers = true) :
    execHash v s = .next (kpermBody (compressBody (mixRunBody (mixInitBody v (spInitBody s))))).complete := by
  rw [execHash, if_pos h, hashBody, hashStages]

end Sys2Proof.Machine
end

