-- ==== Sys2Proof/Laws/HostAccess.lean ====
section
/-! SUPPORT. What the host's transactions can do: one lemma per shared operation that says every outcome once. -/

namespace Sys2Proof.Machine

/-! ### The address map -/

/-- A mapped address lies in the range of a row of the map. -/
theorem regionOf_some {addr : Nat} {r : RegionRow} (h : regionOf addr = some r) :
    r ∈ regionRows ∧ r.start ≤ addr ∧ addr < r.start + r.bytes := by
  have h1 := List.find?_some h
  simp only [RegionRow.holds, Bool.and_eq_true, decide_eq_true_eq] at h1
  exact ⟨List.mem_of_find?_eq_some h, h1⟩

/-- Every region starts at a multiple of 4 and has a length that is one (spec/20 R59). -/
theorem regionRows_aligned : ∀ r ∈ regionRows, r.start % 4 = 0 ∧ r.bytes % 4 = 0 := by decide

/-- An aligned access stays inside its region (spec/20 R59). -/
theorem access_inside {z : Size} {addr : Nat} {r : RegionRow} (h : regionOf addr = some r)
    (hz : addr % z.bytes = 0) : addr - r.start + z.bytes ≤ r.bytes := by
  obtain ⟨hm, h1, h2⟩ := regionOf_some h
  obtain ⟨h3, h4⟩ := regionRows_aligned r hm
  cases z <;> simp only [Size.bytes] at hz ⊢ <;> omega

/-! ### Errors -/

/-- The issue check never answers the code 0. -/
theorem issueError_ne_none (s : State) (w : Word) : issueError s w ≠ some .none := by
  unfold issueError
  split
  · simp
  · split <;> (try split) <;> simp

/-- What issuing a command can do: it raises one command error, or it is accepted (spec/44 R205). -/
theorem issueCommand_cases (s : State) (w : Word) :
    (∃ e, e ≠ .none ∧ issueError s w = some e ∧ s.issueCommand w = s.raiseCmd e) ∨
    (issueError s w = none ∧ s.busy = false ∧ s.issueCommand w = s.accept w) := by
  unfold State.issueCommand
  cases h : issueError s w with
  | some e =>
    refine .inl ⟨e, ?_, rfl, rfl⟩
    rintro rfl
    exact issueError_ne_none s w h
  | none =>
    refine .inr ⟨rfl, ?_, rfl⟩
    cases hb : s.busy
    · rfl
    · simp [issueError, hb] at h

/-! ### Reads and writes -/

/-- What a read can do: it raises BUS_ACCESS or BUS_UNMAPPED, or it answers OK with a value (spec/44 R200). -/
theorem hostRead_cases (s : State) (z : Size) (addr : Nat) :
    (∃ e, (e = .busAccess ∨ e = .busUnmapped) ∧ s.hostRead z addr = s.raiseBus e true) ∨
    (∃ v n, s.hostRead z addr = s.answerRead v n) := by
  unfold State.hostRead
  split
  · exact .inl ⟨_, .inl rfl, rfl⟩
  · split
    · exact .inl ⟨_, .inr rfl, rfl⟩
    · split
      · exact .inl ⟨_, .inl rfl, rfl⟩
      · split
        · exact .inr ⟨_, _, rfl⟩
        · split
          · exact .inr ⟨_, _, rfl⟩
          · split
            · exact .inr ⟨_, _, rfl⟩
            · exact .inr ⟨_, _, rfl⟩

/-- What a write can do: it raises a bus error, or it answers OK having issued a command, written STATUS or CTRL, or,
while no command runs, written MSGLEN or bytes of a writable region (spec/44 R201). -/
theorem hostWrite_cases (s : State) (z : Size) (addr : Nat) (d : Word) :
    (∃ e, e ≠ .none ∧ s.hostWrite z addr d = s.raiseBus e false) ∨
    s.hostWrite z addr d = (s.issueCommand d).answer .ok none ∨
    s.hostWrite z addr d = (s.statusWrite d).answer .ok none ∨
    s.hostWrite z addr d = (s.ctrlWrite d).answer .ok none ∨
    (s.busy = false ∧ s.hostWrite z addr d = { s with msglen := d }.answer .ok none) ∨
    (s.busy = false ∧ ∃ r, regionOf addr = some r ∧ addr % z.bytes = 0 ∧ r.access ≠ .ro ∧
      s.hostWrite z addr d = (s.setRegionBytes r.region (addr - r.start) d z.bytes).answer .ok none) := by
  unfold State.hostWrite
  split
  · exact .inl ⟨_, by simp, rfl⟩
  · rename_i hal
    split
    · exact .inl ⟨_, by simp, rfl⟩
    · rename_i r hr
      split
      · exact .inl ⟨_, by simp, rfl⟩
      · split
        · exact .inl ⟨_, by simp, rfl⟩
        · rename_i hro
          split
          · exact .inr (.inl rfl)
          · split
            · exact .inr (.inr (.inl rfl))
            · split
              · exact .inr (.inr (.inr (.inl rfl)))
              · split
                · exact .inl ⟨_, by simp, rfl⟩
                · rename_i hb
                  have hb' : s.busy = false := by simpa using hb
                  split
                  · exact .inr (.inr (.inr (.inr (.inl ⟨hb', rfl⟩))))
                  · exact .inr (.inr (.inr (.inr (.inr ⟨hb', r, hr, by simpa using hal, hro, rfl⟩))))

/-! ### Bytes written to a region -/

/-- A byte written to a region touches the six host-writable byte arrays at most (spec/20 R61). -/
theorem setRegionByte_frame (s : State) (r : Region) (i : Nat) (v : Byte) :
    let t := s.setRegionByte r i v
    t = { s with state := t.state, sp := t.sp, nonce := t.nonce, key := t.key, blk := t.blk, rkey := t.rkey } := by
  cases r <;> rfl

/-- Bytes written to a region touch the six host-writable byte arrays at most (spec/20 R61). -/
theorem setRegionBytes_frame (s : State) (r : Region) (off : Nat) (v : Word) (n : Nat) :
    let t := s.setRegionBytes r off v n
    t = { s with state := t.state, sp := t.sp, nonce := t.nonce, key := t.key, blk := t.blk, rkey := t.rkey } := by
  induction n with
  | zero => rfl
  | succ n ih =>
    have h := setRegionByte_frame (s.setRegionBytes r off v n) r (off + n) (byteAt v n)
    simp only [State.setRegionBytes] at ih h ⊢
    rw [ih] at h ⊢
    exact h

/-- A byte written to a region keeps SP in canonical form, inside SP. -/
theorem wf_setRegionByte {s : State} (h : Memory.wf s.sp = true) (r : Region) (i : Nat) (v : Byte)
    (hi : r = .sp → i < spSize) : Memory.wf (s.setRegionByte r i v).sp = true := by
  cases r <;> first | exact Memory.wf_write h (hi rfl) v | exact h

/-- Bytes written to a region keep SP in canonical form, inside SP. -/
theorem wf_setRegionBytes {s : State} (h : Memory.wf s.sp = true) (r : Region) (off : Nat) (v : Word) (n : Nat)
    (hi : r = .sp → off + n ≤ spSize) : Memory.wf (s.setRegionBytes r off v n).sp = true := by
  induction n with
  | zero => exact h
  | succ n ih => exact wf_setRegionByte (ih fun hr => by have := hi hr; omega) r _ _ fun hr => by have := hi hr; omega

end Sys2Proof.Machine
end

