-- ==== Sys2Proof/Laws/PerInstr.lean ====
section
/-! SUPPORT. Statements made constructor by constructor. EncodeRow: the encoding of an instruction is one of its own row
of the opcode table (spec/30 R83, R86). -/

namespace Sys2Proof.Laws

/-- The code is a command word that selects the row of the mnemonic, or a transaction whose code TC is that of the
mnemonic (spec/30 R83, R86). -/
def codeSelects (mnemonic : String) : Code → Prop
  | .command w => ∃ r ∈ commandRows, r.mnemonic = mnemonic ∧ r.selects w = true
  | .bus t => (mnemonic, t.tc) ∈ [("RD8", 0b000#3), ("RD16", 0b001), ("RD32", 0b010), ("WR8", 0b100), ("WR16", 0b101),
      ("WR32", 0b110)]

/-- The encoding of an instruction selects its own row. -/
def EncodeRow.Statement (i : Instr) : Prop := codeSelects i.mnemonic (encode i)

theorem EncodeRow.nop : EncodeRow.Statement .nop := ⟨⟨"NOP", 0x00, 0xFFFFFFFF⟩, by decide, rfl, by decide⟩
theorem EncodeRow.keyexp : EncodeRow.Statement .keyexp := ⟨⟨"KEYEXP", 0x01, 0xFFFFFFFF⟩, by decide, rfl, by decide⟩
theorem EncodeRow.enc10 : EncodeRow.Statement .enc10 := ⟨⟨"ENC10", 0x02, 0xFFFFFFFF⟩, by decide, rfl, by decide⟩
theorem EncodeRow.enc1 : EncodeRow.Statement .enc1 := ⟨⟨"ENC1", 0x03, 0xFFFFFFFF⟩, by decide, rfl, by decide⟩
theorem EncodeRow.spInit : EncodeRow.Statement .spInit := ⟨⟨"SP_INIT", 0x10, 0xFFFFFFFF⟩, by decide, rfl, by decide⟩
theorem EncodeRow.mixInit (v : BitVec 8) : EncodeRow.Statement (.mixInit v) :=
  ⟨⟨"MIX_INIT", 0x20, 0xFFFF00FF⟩, by decide, rfl, by revert v; decide +kernel⟩
theorem EncodeRow.mixStep : EncodeRow.Statement .mixStep := ⟨⟨"MIX_STEP", 0x21, 0xFFFFFFFF⟩, by decide, rfl, by decide⟩
theorem EncodeRow.mixRun : EncodeRow.Statement .mixRun := ⟨⟨"MIX_RUN", 0x22, 0xFFFFFFFF⟩, by decide, rfl, by decide⟩
theorem EncodeRow.compress : EncodeRow.Statement .compress :=
  ⟨⟨"COMPRESS", 0x30, 0xFFFFFFFF⟩, by decide, rfl, by decide⟩
theorem EncodeRow.kperm : EncodeRow.Statement .kperm := ⟨⟨"KPERM", 0x40, 0xFFFFFFFF⟩, by decide, rfl, by decide⟩
theorem EncodeRow.hash (v : BitVec 8) : EncodeRow.Statement (.hash v) :=
  ⟨⟨"HASH", 0x80, 0xFFFF00FF⟩, by decide, rfl, by revert v; decide +kernel⟩
theorem EncodeRow.rd8 (addr : WinAddr) : EncodeRow.Statement (.rd8 addr) := by
  simp [EncodeRow.Statement, codeSelects, encode, Instr.mnemonic]
theorem EncodeRow.rd16 (addr : WinAddr) : EncodeRow.Statement (.rd16 addr) := by
  simp [EncodeRow.Statement, codeSelects, encode, Instr.mnemonic]
theorem EncodeRow.rd32 (addr : WinAddr) : EncodeRow.Statement (.rd32 addr) := by
  simp [EncodeRow.Statement, codeSelects, encode, Instr.mnemonic]
theorem EncodeRow.wr8 (addr : WinAddr) (data : Word) : EncodeRow.Statement (.wr8 addr data) := by
  simp [EncodeRow.Statement, codeSelects, encode, Instr.mnemonic]
theorem EncodeRow.wr16 (addr : WinAddr) (data : Word) : EncodeRow.Statement (.wr16 addr data) := by
  simp [EncodeRow.Statement, codeSelects, encode, Instr.mnemonic]
theorem EncodeRow.wr32 (addr : WinAddr) (data : Word) : EncodeRow.Statement (.wr32 addr data) := by
  simp [EncodeRow.Statement, codeSelects, encode, Instr.mnemonic]

end Sys2Proof.Laws
end

