-- ==== Sys2Proof/Laws/Step.lean ====
section
/-! SUPPORT. What a step can do: one inversion lemma for the fetch and one for the step. -/

namespace Sys2Proof.Machine

/-- The core's turn: idle, the running command, or a stop on a word that is no command (spec/10 R20). -/
theorem fetchCore_cases (s : State) :
    (s.busy = false ∧ s.running = none ∧ fetchCore s = .now s) ∨
    (∃ i, s.busy = true ∧ s.running = some i ∧ fetchCore s = .run i s) ∨
    (s.busy = true ∧ s.running = none ∧ fetchCore s = .stop .pendingWordIsNoCommand) := by
  unfold fetchCore State.running
  cases hb : s.busy
  · exact .inl ⟨rfl, by simp, by simp⟩
  · cases hp : s.pend with
    | none => exact .inr (.inr ⟨rfl, by simp, by simp⟩)
    | some w =>
      cases hd : decodeCommand w with
      | ok i => exact .inr (.inl ⟨i, rfl, by simp [hd, Except.toOption], by simp [hd]⟩)
      | error e => exact .inr (.inr ⟨rfl, by simp [hd, Except.toOption], by simp [hd]⟩)

/-- The running command is the one the word in PEND decodes to (spec/10 R34). -/
theorem running_cases {s : State} {i : Instr} (h : s.running = some i) :
    s.busy = true ∧ ∃ w, s.pend = some w ∧ decodeCommand w = .ok i := by
  unfold State.running at h
  split at h
  · rename_i hb
    split at h
    · rename_i w hp
      cases hd : decodeCommand w with
      | ok j =>
        rw [hd] at h
        simp only [Except.toOption, Option.some.injEq] at h
        exact ⟨hb, w, hp, h ▸ hd⟩
      | error e =>
        rw [hd] at h
        cases h
    · cases h
  · cases h

/-- A command word decodes to a command (spec/30 R80). -/
theorem isCommand_of_decodeCommand {w : Word} {i : Instr} (h : decodeCommand w = .ok i) : i.isCommand = true := by
  unfold decodeCommand at h
  simp only at h
  repeat first | (split at h) | (cases h; rfl) | (cases h)

/-- A transaction decodes to a host access (spec/30 R80). -/
theorem isCommand_of_decodeTxn {t : Txn} {i : Instr} (h : decodeTxn t = .ok i) : i.isCommand = false := by
  unfold decodeTxn at h
  repeat first | (split at h) | (cases h; rfl) | (cases h)

/-- What a step that goes on can be (spec/10 R20, spec/20 R63, spec/70 R260): an idle turn of the core, the completion
step of the running command, a host transaction, a transaction of reserved size, or a reset. -/
theorem step_cases {s t : State} (h : step s = .next t) :
    (∃ rest, (s.inputs = .core :: rest ∨ (s.inputs = [] ∧ rest = [])) ∧
      ((s.busy = false ∧ t = { s with inputs := rest }) ∨
       (∃ i, s.running = some i ∧ exec i { s with inputs := rest } = .next t))) ∨
    (∃ x rest, s.inputs = .host x :: rest ∧
      ((∃ i, decodeTxn x = .ok i ∧ exec i { s with inputs := rest } = .next t) ∨
       (∃ e, decodeTxn x = .error e ∧
         t = { s with inputs := rest }.raiseBus .busAccess (!x.tc.getLsbD 2)))) ∨
    (∃ rest, s.inputs = .rst :: rest ∧ t = { s with inputs := rest }.resetStep) := by
  have core : ∀ rest, step s = perform (fetchCore { s with inputs := rest }) →
      (s.busy = false ∧ t = { s with inputs := rest }) ∨
       (∃ i, s.running = some i ∧ exec i { s with inputs := rest } = .next t) := by
    intro rest hs
    rw [hs] at h
    rcases fetchCore_cases { s with inputs := rest } with ⟨hb, -, hf⟩ | ⟨i, -, hr, hf⟩ | ⟨-, -, hf⟩
    · rw [hf] at h
      exact .inl ⟨hb, (Host.Outcome.next.inj h).symm⟩
    · rw [hf] at h
      exact .inr ⟨i, hr, h⟩
    · rw [hf] at h
      cases h
  cases hi : s.inputs with
  | nil =>
    refine .inl ⟨[], .inr ⟨rfl, rfl⟩, core [] ?_⟩
    have : ({ s with inputs := [] } : State) = s := by cases s; simp_all
    rw [this]; simp only [step, fetch, hi]
  | cons e rest =>
    cases e with
    | core => exact .inl ⟨rest, .inl rfl, core rest (by simp only [step, fetch, hi])⟩
    | rst =>
      refine .inr (.inr ⟨rest, rfl, ?_⟩)
      simp only [step, perform, fetch, hi] at h
      exact (Host.Outcome.next.inj h).symm
    | host x =>
      refine .inr (.inl ⟨x, rest, rfl, ?_⟩)
      simp only [step, perform, fetch, hi, fetchHost] at h
      cases hd : decodeTxn x with
      | ok i => exact .inl ⟨i, rfl, by simpa [hd] using h⟩
      | error e => exact .inr ⟨e, rfl, by simpa [hd] using h.symm⟩

/-- Placing a command word makes the next step execute the command it decodes to (log 8). -/
theorem step_withCommand (s : State) (w : Word) (i : Instr) (h : decodeCommand w = .ok i) :
    step (s.withCommand w) = exec i { s with pend := some w, busy := true } := by
  simp [step, perform, State.withCommand, fetch, fetchCore, h]

/-- Placing a transaction makes the next step execute it (log 8). -/
theorem step_withTxn (s : State) (t : Txn) (i : Instr) (h : decodeTxn t = .ok i) :
    step (s.withTxn t) = exec i s := by
  simp [step, perform, State.withTxn, fetch, fetchHost, h]

end Sys2Proof.Machine
end

