-- ==== Sys2Proof/Tests/Slice0.lean ====
section
/-! SUPPORT. Tests of the model against spec/95_test_vectors.md and the encodings of spec/30, and for each statement
with hypotheses a witness that meets them. Expected values are the spec's; V names a section of spec/95. -/

namespace Sys2Proof.Tests

open Sys2Proof Sys2Proof.Machine Sys2Proof.Claims

set_option Elab.async false

/-- Sixteen bytes written byte 0 first, as spec/95 writes them, as a block. -/
def mem (n : Nat) : Block := pack 128 (fun i => BitVec.ofNat 8 (n / 256 ^ (15 - i))) 16

/-- The state after reset with one command word pending. -/
def running (w : Word) : State := { State.reset with pend := some w, busy := true }

/-- The state an outcome goes on to, or the reset state. -/
def after (o : Host.Outcome State Fault Refusal) : State :=
  match o with
  | .next t => t
  | _ => State.reset

/-- What a transaction answers. -/
def answered (i : Instr) (s : State) : Option BusReply := (after (exec i s)).reply

/-- The error code an instruction leaves. -/
def codeAfter (i : Instr) (s : State) : ErrorCode := (after (exec i s)).ecode

/-- The data V2.3 assumes: STATE[i] = i, RK byte i = i, the last four bytes of SP fc fd fe ff. -/
def filled : State :=
  { State.reset with
    state := pack 1600 (fun i => BitVec.ofNat 8 i) 200
    rk := pack 1280 (fun i => BitVec.ofNat 8 i) 160
    sp := [(0x1FFFFC, 0xFC), (0x1FFFFD, 0xFD), (0x1FFFFE, 0xFE), (0x1FFFFF, 0xFF)] }

/-! ### WellFormed -/

theorem test_wellFormed_refuses_wide_byte : (Instr.wr8 0 0x100).wellFormed = false := by decide
theorem test_wellFormed_refuses_wide_half : (Instr.wr16 0 0x10000).wellFormed = false := by decide
theorem test_wellFormed_admits_full_byte_and_half :
    (Instr.wr8 0 0xFF).wellFormed = true ∧ (Instr.wr16 0 0xFFFF).wellFormed = true := by decide

/-! ### Decode: words written out from spec/30 R81 to R87 -/

theorem test_decode_nop : decodeBytes [0x00, 0x00, 0x00, 0x00] = .ok .nop := by decide +kernel
theorem test_decode_keyexp : decodeBytes [0x01, 0x00, 0x00, 0x00] = .ok .keyexp := by decide +kernel
theorem test_decode_enc10 : decodeBytes [0x02, 0x00, 0x00, 0x00] = .ok .enc10 := by decide +kernel
theorem test_decode_enc1 : decodeBytes [0x03, 0x00, 0x00, 0x00] = .ok .enc1 := by decide +kernel
theorem test_decode_spInit : decodeBytes [0x10, 0x00, 0x00, 0x00] = .ok .spInit := by decide +kernel
theorem test_decode_mixInit : decodeBytes [0x20, 0x01, 0x00, 0x00] = .ok (.mixInit 1) := by decide +kernel
theorem test_decode_mixStep : decodeBytes [0x21, 0x00, 0x00, 0x00] = .ok .mixStep := by decide +kernel
theorem test_decode_mixRun : decodeBytes [0x22, 0x00, 0x00, 0x00] = .ok .mixRun := by decide +kernel
theorem test_decode_compress : decodeBytes [0x30, 0x00, 0x00, 0x00] = .ok .compress := by decide +kernel
theorem test_decode_kperm : decodeBytes [0x40, 0x00, 0x00, 0x00] = .ok .kperm := by decide +kernel
theorem test_decode_hash : decodeBytes [0x80, 0xFF, 0x00, 0x00] = .ok (.hash 255) := by decide +kernel

/-- The rows V2.2 gives as ILLEGAL. -/
theorem test_decode_illegal :
    ([0x00000101, 0x00010020, 0x80000080, 0x00000004, 0x00000011, 0x00000023, 0x00000041, 0x00000081, 0x000000FF,
      0x00002000] : List Word).all (fun w => decodeCommand w == .error .illegalCommand) = true := by
  decide +kernel

theorem test_decode_rd8 : decodeTxn ⟨0b000, 0x1FFFFF, 0⟩ = .ok (.rd8 0x1FFFFF) := by decide +kernel
theorem test_decode_rd16 : decodeTxn ⟨0b001, 0x2000C6, 0⟩ = .ok (.rd16 0x2000C6) := by decide +kernel
theorem test_decode_rd32 : decodeTxn ⟨0b010, 0x3FFFFC, 0⟩ = .ok (.rd32 0x3FFFFC) := by decide +kernel
theorem test_decode_wr8 : decodeTxn ⟨0b100, 0x200160, 0x1234567F⟩ = .ok (.wr8 0x200160 0x7F) := by decide +kernel
theorem test_decode_wr16 : decodeTxn ⟨0b101, 0x2000C6, 0x12345678⟩ = .ok (.wr16 0x2000C6 0x5678) := by decide +kernel
theorem test_decode_wr32 : decodeTxn ⟨0b110, 0x200118, 0x04030201⟩ = .ok (.wr32 0x200118 0x04030201) := by
  decide +kernel
theorem test_decode_reserved :
    decodeTxn ⟨0b011, 0, 0⟩ = .error .reservedSize ∧ decodeTxn ⟨0b111, 0, 0⟩ = .error .reservedSize := by
  decide +kernel

/-! ### AES engine (V1.1 to V1.3) -/

/-- V1.1, the key of FIPS-197 A.3: RK[2] and RK[9]. -/
theorem test_keyexp_fips :
    let s := { State.reset with key := mem 0x1f352c073b6108d72d9810a30914dff4 ++ mem 0x603deb1015ca71be2b73aef0857d7781 }
    let t := after (exec .keyexp s)
    roundKey t.rk 2 = mem 0x9ba354118e6925afa51a8b5f2067fcde ∧
      roundKey t.rk 9 = mem 0xc814e20476a9fb8a5025c02d59c58239 := by
  decide +kernel

/-- V1.2, intel_aesenc. -/
theorem test_enc1_intel :
    let s := { State.reset with blk := mem 0x5d47535d726f74636556747365545b7b, rkey := mem 0x5d6e6f726575475b2979616853286948 }
    (after (exec .enc1 s)).blk = mem 0x95e5d7de584b108bc5a3db9f2f1c31a8 := by
  decide +kernel

/-- V1.2, seq_seq. -/
theorem test_enc1_seq :
    let s := { State.reset with blk := mem 0x000102030405060708090a0b0c0d0e0f, rkey := mem 0x101112131415161718191a1b1c1d1e1f }
    (after (exec .enc1 s)).blk = mem 0x7a7b4e5638782546a8c0477a3b813f43 := by
  decide +kernel

/-- RK after KEYEXP of the key 00 01 … 1f: column seq of V1.1, as one number. -/
def seqKeys : BitVec 1280 :=
    0x0a820a64334d0d3087d3b21760a6f5452f1c87c1a44552ad48097bc25f90dc0b39cf0754b49ebf27e7754752753ae23d8b59d56cec4c296f1799a7c97f8256c68d51b87353ebf875924fa56f48f1e16d6715fc03fbd58ea6681bf10ff0df87aedeba4006c1a45d1adabe4402cda851169cc072a593ce7fa998c476a19fc273a51f1e1d1c1b1a191817161514131211100f0e0d0c0b0a09080706050403020100

/-- RK after KEYEXP of the zero key: column zero of V1.1, as one number. -/
def zeroKeys : BitVec 1280 :=
    0x1eaabbbdb5a6bc568fdccd6adf2b312be962fecde7e3c6f1456df1c0288faa9eab0c07eb3a7a713c50f7fc41c1818a960e81383ca28e37316de25b5ec1ed5453917676d76a8d8d7d917676d76a8d8d7dac0f0f0dcf6c6c6fac0f0f0dcf6c6c6ffbfbfbaafbfbfbaafbfbfbaafbfbfbaa636363626363636263636362636363620000000000000000000000000000000000000000000000000000000000000000

/-- V1.1, columns seq and zero. -/
theorem test_keyexp_columns :
    expandKey 0x1f1e1d1c1b1a191817161514131211100f0e0d0c0b0a09080706050403020100 = seqKeys ∧ expandKey 0 = zeroKeys := by
  decide +kernel

/-- V1.3, fips_pt_seq_key. -/
theorem test_enc10_seq :
    let s := { State.reset with blk := mem 0x00112233445566778899aabbccddeeff, rk := seqKeys }
    (after (exec .enc10 s)).blk = mem 0xde4320be12e89f05ebe3cb2be09aa7ba := by
  decide +kernel

/-! ### Scratchpad initializer and compressor (V3.1, V3.2) -/

/-- V3.1, sub-block 0 of chunks 0 and 1 of SP_INIT on the zero STATE (the eight sub-blocks do not meet). -/
theorem test_spInit_chunks :
    let m := spInitLoop zeroKeys 2 0 [0] []
    Memory.readCell m 0 = mem 0xa473ad45d06dc2e9df7a790a0d69badf ∧
      Memory.readCell m 128 = mem 0x9c52e6c9c146203b556cb3d86417f713 := by
  decide +kernel

/-- The seed of SP_INIT and COMPRESS is STATE[64:192), low block first (spec/41 R140). -/
theorem test_seedBlocks :
    (seedBlocks (pack 1600 (fun i => BitVec.ofNat 8 i) 200)).getD 7 0 = mem 0xb0b1b2b3b4b5b6b7b8b9babbbcbdbebf := by
  decide +kernel

/-- V3.2, sub-block 0 of chunk 0 of COMPRESS after V3.1, and the carry. -/
theorem test_compress_chunk :
    let r := compressLoop zeroKeys 1 0 [0] (Memory.writeCell [] 0 (mem 0xa473ad45d06dc2e9df7a790a0d69badf))
    Memory.readCell r.1 0 = mem 0x9c52e6c9c146203b556cb3d86417f713 ∧ r.2 = [mem 0x9c52e6c9c146203b556cb3d86417f713] := by
  decide +kernel

/-! ### Mixer (V2.1, V4.1 to V4.5) -/

theorem test_spAddr :
    spAddr (mem 0x123456789abcdef00000000000000000) = 0x163410 ∧
      spAddr (mem 0xffff2000000000000000000000000000) = 0x00fff0 := by
  decide +kernel

theorem test_mulLanes :
    mulLanes (cell 0x0123456789ABCDEF 0) (cell 0xFEDCBA9876543210 0) = mem 0x42d777ad00fa2101f08c61e58fd83622 := by
  decide +kernel

/-- V4.1: the state before MIX_INIT 0. -/
def mixZero : State :=
  { State.reset with
    sp := Memory.writeCell (Memory.writeCell [] 0 (mem 0xa0f1d452529643dfc552603101d052fc)) 16
      (mem 0x02000000000000005555555555555555) }

/-- V4.2: the state before MIX_INIT 1. -/
def mixAliased : State :=
  { State.reset with
    state := (mem 0x00000000000000008877665544332211 ++ mem 0xffffffffffffffffffffffffffffffff).setWidth 1600
    nonce := 0x0807060504030201
    msglen := 43
    sp := Memory.writeCell [] 0x1FFFF0 (mem 0x52134452525222568452525b0d775252) }

theorem test_mixInit_variant1 :
    let t := after (exec (.mixInit 1) mixAliased)
    t.a = mem 0xffffffffffffffffffffffffffffffff ∧ t.b = mem 0x00000000000000008877665544332211 ∧
      t.tweak = 0x0807060504030201 ∧ t.varL = 1 ∧ t.mixReady = true ∧ t.iter = 0 := by
  decide +kernel

/-- V4.1. -/
theorem test_mixStep_variant0 :
    let t := after (exec .mixStep (after (exec (.mixInit 0) mixZero)))
    t.a = mem 0x02000000000000007555555555555555 ∧ t.b = mem 0x10000000000000001100ffeeddccbbaa ∧
      Memory.readCell t.sp 16 = mem 0x00000000000000002000000000000000 ∧ t.iter = 1 := by
  decide +kernel

/-- V4.2: both addresses name one cell, both lanes wrap, both tweaks act. -/
theorem test_mixStep_aliased :
    let t := after (exec .mixStep (after (exec (.mixInit 1) mixAliased)))
    t.a = mem 0x020000000000000067bacdec23760110 ∧ t.b = mem 0xffffffffffffffffefcdab8967452301 ∧
      Memory.readCell t.sp 0x1FFFF0 = mem 0xfdffffffffffffff0102030405060708 := by
  decide +kernel

/-- MIX_RUN at ITER = 2^19 - 1 runs V4.1's iteration as its last one and ends at 2^19 (spec/42 R157). -/
theorem test_mixRun_last :
    let t := after (exec .mixRun { after (exec (.mixInit 0) mixZero) with iter := 0x7FFFF })
    t.a = mem 0x02000000000000007555555555555555 ∧ t.iter = 0x80000 ∧ t.busy = false ∧ t.done = true := by
  decide +kernel

/-! ### NOP, KPERM, HASH (spec/43) -/

theorem test_nop_completes : (after (exec .nop (running 0))).done = true ∧ (after (exec .nop (running 0))).busy = false := by
  decide +kernel

theorem test_kperm_answer : (after (exec .kperm (running 0x40))).state = Config.keccakF 0 := rfl

theorem test_hash_waits :
    let t := after (exec (.hash 0) { running 0x80 with keccakAnswers := false })
    t.busy = true ∧ t.kReq = true ∧ t.done = false := by
  decide +kernel

/-! ### Host accesses (V2.3, V2.4) -/

theorem test_rd8_last_sp_byte : answered (.rd8 0x1FFFFF) filled = some ⟨.ok, some 0xFF⟩ := by decide +kernel
theorem test_rd8_word_only : codeAfter (.rd8 0x200115) filled = .busAccess := by decide +kernel
theorem test_rd16_last_state : answered (.rd16 0x2000C6) filled = some ⟨.ok, some 0xC7C6⟩ := by decide +kernel
theorem test_rd16_misaligned : answered (.rd16 0x2000C9) filled = some ⟨.err, some 0⟩ ∧
    codeAfter (.rd16 0x2000C9) filled = .busAccess := by decide +kernel
theorem test_rd32_last_rk : answered (.rd32 0x20029C) filled = some ⟨.ok, some 0x9F9E9D9C⟩ := by decide +kernel
theorem test_rd32_gap : codeAfter (.rd32 0x2000C8) filled = .busUnmapped := by decide +kernel
theorem test_wr8_read_only : codeAfter (.wr8 0x200120 0) filled = .busReadonly ∧
    codeAfter (.wr8 0x20010C 0) filled = .busAccess := by decide +kernel
theorem test_wr8_sp : Memory.read (after (exec (.wr8 0x1FFFFE 0) filled)).sp 0x1FFFFE = 0 ∧
    (after (exec (.wr8 0x1FFFFE 0) filled)).sp.length = 3 := by decide +kernel
theorem test_wr16_read_only : codeAfter (.wr16 0x200190 0) filled = .busReadonly := by decide +kernel
theorem test_wr16_nonce : (after (exec (.wr16 0x20011E 0xABCD) filled)).nonce = 0xABCD000000000000 := by decide +kernel
theorem test_wr32_state : byteAt (after (exec (.wr32 0x2000C4 0x44332211) filled)).state 196 = 0x11 ∧
    byteAt (after (exec (.wr32 0x2000C4 0x44332211) filled)).state 199 = 0x44 := by decide +kernel
theorem test_wr32_cmd_busy : codeAfter (.wr32 0x200100 0x04) (running 0) = .cmdBusy := by decide +kernel

/-- V2.4, four rows of STATUS. -/
theorem test_status_word :
    statusOf false true false .none true 1 2 = 0x02001102 ∧ statusOf true false true .busBusy false 0 0 = 0x00000085 ∧
      statusOf false true false .none true 3 255 = 0xFF003102 ∧ statusOf false false true .cmdSeq false 2 0 = 0x00002044 := by
  decide +kernel

/-- The first error keeps its code (spec/60 R232). -/
theorem test_first_error_wins :
    ((State.reset.recordError .busAccess).recordError .cmdBusy).ecode = .busAccess := by decide +kernel

/-! ### Placing an opcode-table word -/

theorem test_fetch_command : (after (step (State.reset.withFetchWord 32 0x120))).varL = 1 := by decide +kernel

theorem test_fetch_transaction :
    (after (step (State.reset.withFetchWord 64 0x0000002B20011006))).msglen = 0x2B ∧
      decodeTableWord 64 0x0000002B20011006 = some (.wr32 0x200110 0x2B) := by
  decide +kernel

/-! ### Witnesses: for each statement with hypotheses, states and operands that meet them, clause by clause -/

theorem witness_DecodeEncodeRoundTrip :
    (Instr.wr8 0x3FFFFF 0xFF).wellFormed = true ∧ (Instr.wr16 0 0xFFFF).wellFormed = true ∧
      (Instr.hash 255).wellFormed = true := by
  decide

theorem witness_CommandDecodesByOpcodeMap :
    decodeCommand 0xFF20 = .ok (.mixInit 0xFF) ∧ (OpcodeRow.mk "MIX_INIT" 0x20 0xFFFF00FF) ∈ commandRows ∧
      (OpcodeRow.mk "MIX_INIT" 0x20 0xFFFF00FF).selects 0xFF20 = true ∧ decodeCommand 0x80 = .ok (.hash 0) := by
  decide +kernel

theorem witness_DecodedCommandEncodesToItsWord : decodeCommand 0xFF80 = .ok (.hash 0xFF) := by decide +kernel

theorem witness_StepPerformsHostTransaction :
    (State.reset.withTxn ⟨0b010, 0x200114, 0⟩).inputs = [.host ⟨0b010, 0x200114, 0⟩] ∧
      decodeTxn ⟨0b010, 0x200114, 0⟩ = .ok (.rd32 0x200114) := by
  decide +kernel

theorem witness_StepCompletesPendingCommand :
    (State.reset.withCommand 0x21).inputs = [.core] ∧ (State.reset.withCommand 0x21).busy = true ∧
      (State.reset.withCommand 0x21).pend = some 0x21 ∧ decodeCommand 0x21 = .ok .mixStep ∧
      (running 0x21).inputs = [] ∧ (running 0x21).busy = true ∧ (running 0x21).pend = some 0x21 := by
  decide +kernel

theorem witness_ReservedSizeRaisesBusAccess :
    (State.reset.withTxn ⟨0b011, 1, 0⟩).inputs = [.host ⟨0b011, 1, 0⟩] ∧
      (State.reset.withTxn ⟨0b111, 0x200000, 0⟩).inputs = [.host ⟨0b111, 0x200000, 0⟩] := by
  decide

theorem witness_IdleCoreChangesNothing :
    State.reset.busy = false ∧ State.reset.inputs = [] ∧ { State.reset with inputs := [.core] }.busy = false := by
  decide

theorem witness_ResetInputRestoresControlState :
    { running 0x80 with inputs := [.rst, .core] }.inputs = .rst :: [.core] := by
  decide

/-- A state of the invariant with a command running, an error recorded and ITER at its bound. -/
def midRun : State := { running 0x22 with mixReady := true, iter := 0x80000, err := true, ecode := .cmdBusy }

theorem witness_StepKeepsInvariant : midRun.Inv ∧ ∃ t, step midRun = .next t := by
  refine ⟨⟨by decide, by decide, ?_, by decide, ?_, by decide, ?_⟩, _, rfl⟩
  · intro w hw
    cases (show some (0x22 : Word) = some w from hw)
    decide +kernel
  · rw [mixIterations_eq]; decide
  · intro h
    exact absurd h (by decide)

theorem witness_InvariantStateGoesOn : midRun.Inv := witness_StepKeepsInvariant.1

theorem witness_MixReadyRisesByMixInitOrHashAndFallsByReset :
    (∃ t, step (running 0x120) = .next t ∧ (running 0x120).mixReady = false ∧ t.mixReady = true) ∧
    (∃ t, step { midRun with inputs := [.rst] } = .next t ∧ midRun.mixReady = true ∧ t.mixReady = false) :=
  ⟨⟨_, rfl, rfl, rfl⟩, ⟨_, rfl, rfl, rfl⟩⟩

theorem witness_ReadErrorsInPriorityOrder :
    (0x2000C9#22).toNat % Size.two.bytes ≠ 0 ∧ (0x3FFFFD#22).toNat % Size.four.bytes ≠ 0 ∧
    (0x2000C8#22).toNat % Size.four.bytes = 0 ∧ regionOf (0x2000C8#22).toNat = none ∧
    regionOf (0x3FFFFF#22).toNat = none ∧
    (0x200116#22).toNat % Size.two.bytes = 0 ∧
    regionOf (0x200116#22).toNat = some ⟨0x200114, 4, .id, .wordOnly, .ro⟩ ∧ Size.two ≠ .four := by
  decide +kernel

theorem witness_WriteErrorsInPriorityOrder :
    (0x200001#22).toNat % Size.two.bytes ≠ 0 ∧
    (0x2000FC#22).toNat % Size.four.bytes = 0 ∧ regionOf (0x2000FC#22).toNat = none ∧
    regionOf (0x20010C#22).toNat = some ⟨0x20010C, 4, .iter, .wordOnly, .ro⟩ ∧ Size.one ≠ .four ∧
    regionOf (0x20029F#22).toNat = some ⟨0x200200, 160, .rk, .byteArray, .ro⟩ ∧
    regionOf (0x200110#22).toNat = some ⟨0x200110, 4, .msglen, .wordOnly, .rw⟩ ∧ Region.msglen ≠ .ctrl ∧
    regionOf (0x1FFFFF#22).toNat = some ⟨0, 2 ^ 21, .sp, .byteArray, .rw⟩ ∧ (running 0).busy = true := by
  decide +kernel

theorem witness_ErrAnswerHasNoOtherEffect :
    (Instr.rd8 0x200115).isCommand = false ∧
      ∃ t, exec (.rd8 0x200115) State.reset = .next t ∧ t.reply = some ⟨.err, some 0⟩ := by
  refine ⟨rfl, State.reset.hostRead .one 0x200115, rfl, ?_⟩
  decide +kernel

theorem witness_CommandIssueChecksInOrder :
    (running 0).busy = true ∧ State.reset.busy = false ∧
    decodeCommand 0x04 = .error .illegalCommand ∧
    decodeCommand 0x21 = .ok .mixStep ∧ State.reset.mixReady = false ∧ ({ State.reset with iter := 0x80000 }.iter).toNat = 2 ^ 19 ∧
    decodeCommand 0x22 = .ok .mixRun ∧
    decodeCommand 0x120 = .ok (.mixInit 1) ∧ decodeCommand 0x180 = .ok (.hash 1) ∧
    ({ State.reset with msglen := 42 }.msglen).toNat < 43 ∧ 43 ≤ ({ State.reset with msglen := 43 }.msglen).toNat ∧
    ({ State.reset with mixReady := true, iter := 0x7FFFF }.iter).toNat ≠ 2 ^ 19 := by
  decide +kernel

theorem witness_CompletionSetsDoneAndRaisesIrq :
    (Instr.hash 1).isCommand = true ∧ usesKeccak (.hash 1) = true ∧ (running 0x180).keccakAnswers = true ∧
      (Instr.nop).isCommand = true ∧ usesKeccak .nop = false ∧ { running 0 with ieDone := true }.ieDone = true := by
  decide

theorem witness_StatusReadShowsEveryField : { midRun with busy := false, pend := none }.busy = false := rfl

theorem witness_StatusReadWhileBusy :
    (running 0x2020).running = some (.mixInit 0x20) ∧ (running 0x40).running = some .kperm ∧
      (running 0x22).running = some .mixRun := by
  decide +kernel

/-- Idle, and running a command that does not write ITER. -/
theorem witness_ControlRegistersReadBack :
    byteBusy State.reset .iter 0 = false ∧ byteBusy (running 0x30) .iter 0 = false ∧
      (running 0x30).running = some .compress := by
  decide +kernel

/-- Idle, and busy with COMPRESS at the two bytes of STATE that bound its write set. -/
theorem witness_ReadReturnsRegionBytes :
    regionOf (0x20003F#22).toNat = some ⟨0x200000, 200, .state, .byteArray, .rw⟩ ∧
    regionOf (0x2000C0#22).toNat = some ⟨0x200000, 200, .state, .byteArray, .rw⟩ ∧
    (∀ k, k < Size.one.bytes → byteBusy (running 0x30) .state ((0x20003F#22).toNat - 0x200000 + k) = false) ∧
    (∀ k, k < Size.four.bytes → byteBusy (running 0x30) .state ((0x2000C0#22).toNat - 0x200000 + k) = false) ∧
    (∀ k, k < Size.four.bytes → byteBusy State.reset .rk ((0x20029C#22).toNat - 0x200200 + k) = false) ∧
    (0x20029C#22).toNat % Size.four.bytes = 0 ∧
    regionOf (0x20029C#22).toNat = some ⟨0x200200, 160, .rk, .byteArray, .ro⟩ := by
  decide +kernel

theorem witness_ReadOfWriteSetAnswersSomeValue :
    regionOf (0x200040#22).toNat = some ⟨0x200000, 200, .state, .byteArray, .rw⟩ ∧
    (0x200040#22).toNat % Size.four.bytes = 0 ∧
    byteBusy (running 0x30) .state ((0x200040#22).toNat - 0x200000 + 0) = true ∧
    byteBusy (running 0x30) .state ((0x2000BF#22).toNat - 0x200000 + 0) = true ∧
    regionOf (0x20010C#22).toNat = some ⟨0x20010C, 4, .iter, .wordOnly, .ro⟩ ∧
    byteBusy (running 0x22) .iter ((0x20010C#22).toNat - 0x20010C + 3) = true := by
  decide +kernel

theorem witness_AddressMapHasNoOverlap :
    (windowMap.all fun r => regionOf r.start == some r && regionOf (r.start + r.bytes - 1) == some r) = true ∧
      (∀ r ∈ windowMap, 0x200128 < r.start ∨ r.start + r.bytes ≤ 0x200128) := by
  decide +kernel

theorem witness_WriteStoresExactlyItsBytes :
    Memory.wf filled.sp = true ∧ filled.busy = false ∧ (0x1FFFFC#22).toNat % Size.four.bytes = 0 ∧
      regionOf (0x1FFFFC#22).toNat = some ⟨0, 2 ^ 21, .sp, .byteArray, .rw⟩ ∧
      (0x20017E#22).toNat % Size.two.bytes = 0 ∧
      regionOf (0x20017E#22).toNat = some ⟨0x200170, 16, .rkey, .byteArray, .rw⟩ ∧
      regionOf (0x2000C7#22).toNat = some ⟨0x200000, 200, .state, .byteArray, .rw⟩ := by
  decide +kernel

theorem witness_MsglenWriteStoresTheWord : State.reset.busy = false := rfl

theorem witness_BusyHostCannotDisturbCommand :
    (Instr.wr32 0x200104 6).isCommand = false ∧ (Instr.wr8 0x200000 0).isCommand = false ∧ (running 0x22).busy = true := by
  decide

/-- The hypotheses of the inner clause of Enc10IsTenRoundsUnderRk: a state with the block of round r and RK[r] in
RKEY. -/
theorem witness_Enc10IsTenRoundsUnderRk (s : State) (x : Nat → Block) :
    let t := { s with blk := x 9, rkey := s.rk.extractLsb' (128 * 9) 128 }
    t.blk = x 9 ∧ t.rkey = s.rk.extractLsb' (128 * 9) 128 :=
  ⟨rfl, rfl⟩

theorem witness_SpInitFillsEveryChunk : Memory.wf filled.sp = true := by decide +kernel

/-- Two states that differ in SP, in the tweak bytes of STATE and in the key, and agree on STATE[0:32) and
STATE[64:192). -/
theorem witness_SpInitDependsOnlyOnState :
    let s₁ := filled
    let s₂ := { State.reset with state := setByte (setByte filled.state 32 0) 199 0, key := 1 }
    Memory.wf s₁.sp = true ∧ Memory.wf s₂.sp = true ∧ s₁.state ≠ s₂.state ∧
      (∀ i, i < 200 → i < 32 ∨ (64 ≤ i ∧ i < 192) → byteAt s₁.state i = byteAt s₂.state i) := by
  decide +kernel

/-- V4.1, where the two cells differ, and V4.2, where they are one. -/
theorem witness_MixStepRunsOneIteration :
    (let s := after (exec (.mixInit 0) mixZero)
     Memory.wf s.sp = true ∧ spAddr (aesRound (Memory.readCell s.sp (spAddr s.a)) s.a) ≠ spAddr s.a) ∧
    (let s := after (exec (.mixInit 1) mixAliased)
     Memory.wf s.sp = true ∧ s.varL = 1 ∧ spAddr (aesRound (Memory.readCell s.sp (spAddr s.a)) s.a) = spAddr s.a) := by
  decide +kernel

theorem witness_MixRunFinishesTheLoop : State.reset.iter.toNat ≤ 2 ^ 19 ∧ midRun.iter.toNat = 2 ^ 19 := by decide +kernel

theorem witness_MixStepThenRunIsRun : ({ midRun with iter := 0x7FFFF }.iter).toNat < 2 ^ 19 := by decide +kernel

theorem witness_VariantsOtherThanOneRunAsZero :
    (2 : BitVec 8) ≠ 1 ∧ (255 : BitVec 8) ≠ 1 ∧ (running 0x280).keccakAnswers = true := by
  decide

theorem witness_CompressFoldsScratchpad : Memory.wf mixZero.sp = true := by decide +kernel

theorem witness_KpermReplacesState : State.reset.keccakAnswers = true := rfl

theorem witness_HashIsItsFiveStages : mixAliased.keccakAnswers = true := rfl

/-- Two cores with one STATE and NONCE and different earlier work. -/
theorem witness_HashResultIgnoresEarlierWork :
    let s₁ := mixAliased
    let s₂ := { mixAliased with sp := filled.sp, rk := 5, a := 7, b := 9, iter := 0x80000, mixReady := true }
    Memory.wf s₁.sp = true ∧ Memory.wf s₂.sp = true ∧ s₁.keccakAnswers = true ∧ s₂.keccakAnswers = true ∧
      s₁.state = s₂.state ∧ s₁.nonce = s₂.nonce := by
  decide +kernel

theorem witness_CommandsWriteOnlyTheirRegisters :
    (Instr.compress).isCommand = true ∧ exec .compress mixZero = .next (compressBody mixZero).complete ∧
      writesMixer .compress = false ∧ latchesVariant .compress = false ∧ writesBlk .compress = false ∧
      writesRk .enc1 = false ∧ writesSp .keyexp = false ∧ writesState .mixRun = false :=
  ⟨rfl, rfl, rfl, rfl, rfl, rfl, rfl, rfl⟩

theorem witness_RunningCommandCompletes :
    (running 0x30).running = some .compress ∧ usesKeccak .compress = false ∧ (running 0x30).inputs = [] ∧
      (State.reset.withCommand 0x40).running = some .kperm ∧ (State.reset.withCommand 0x40).inputs = [.core] ∧
      ({ running 0x80 with keccakAnswers := false }).running = some (.hash 0) ∧ usesKeccak (.hash 0) = true := by
  decide +kernel

theorem witness_KeccakHangLastsUntilReset :
    let s := { running 0x80 with keccakAnswers := false, inputs := [.host ⟨0b110, 0x200104, 6⟩] }
    s.running = some (.hash 0) ∧ usesKeccak (.hash 0) = true ∧ s.keccakAnswers = false ∧
      (∀ rest, s.inputs ≠ .rst :: rest) := by
  refine ⟨by decide +kernel, rfl, rfl, ?_⟩
  intro rest h
  cases h

theorem witness_WindowBytesAreTheRegisters : filled.busy = false ∧ 2 ^ 21 - 1 < 2 ^ 21 ∧ 9 < 10 ∧ 15 < 16 := by decide

/-- COMPRESS at the two bytes of STATE outside its write set that bound it, and commands that do not write ITER. -/
theorem witness_CompletionWritesOnlyItsWriteSet :
    (Instr.compress).isCommand = true ∧ exec .compress mixZero = .next (compressBody mixZero).complete ∧
      writtenByte .compress .state 63 = false ∧ writtenByte .compress .state 192 = false ∧
      writtenByte .compress .iter 0 = false ∧ writtenByte .kperm .sp 0 = false :=
  ⟨rfl, rfl, rfl, rfl, rfl, rfl⟩

end Sys2Proof.Tests
end

section
/-! SUPPORT. The rules that the proofs about commands and transactions share: what MIX_RUN and a write to the window
leave alone, a command as a body and its end, and the outcomes of a bus transaction. -/

namespace Sys2Proof.Machine

open Sys2Proof.Claims

variable (s : State)

/-! ### Fields that MIX_RUN leaves alone (spec/42 R157) -/

@[simp] theorem mixRunBody_state : (mixRunBody s).state = s.state := (congrArg State.state (mixRunBody_frame s) :)
@[simp] theorem mixRunBody_rk : (mixRunBody s).rk = s.rk := (congrArg State.rk (mixRunBody_frame s) :)
@[simp] theorem mixRunBody_key : (mixRunBody s).key = s.key := (congrArg State.key (mixRunBody_frame s) :)
@[simp] theorem mixRunBody_blk : (mixRunBody s).blk = s.blk := (congrArg State.blk (mixRunBody_frame s) :)
@[simp] theorem mixRunBody_rkey : (mixRunBody s).rkey = s.rkey := (congrArg State.rkey (mixRunBody_frame s) :)
@[simp] theorem mixRunBody_nonce : (mixRunBody s).nonce = s.nonce := (congrArg State.nonce (mixRunBody_frame s) :)
@[simp] theorem mixRunBody_tweak : (mixRunBody s).tweak = s.tweak := (congrArg State.tweak (mixRunBody_frame s) :)
@[simp] theorem mixRunBody_varL : (mixRunBody s).varL = s.varL := (congrArg State.varL (mixRunBody_frame s) :)
@[simp] theorem mixRunBody_mixReady : (mixRunBody s).mixReady = s.mixReady :=
  (congrArg State.mixReady (mixRunBody_frame s) :)
@[simp] theorem mixRunBody_msglen : (mixRunBody s).msglen = s.msglen := (congrArg State.msglen (mixRunBody_frame s) :)
@[simp] theorem mixRunBody_pend : (mixRunBody s).pend = s.pend := (congrArg State.pend (mixRunBody_frame s) :)
@[simp] theorem mixRunBody_busy : (mixRunBody s).busy = s.busy := (congrArg State.busy (mixRunBody_frame s) :)
@[simp] theorem mixRunBody_done : (mixRunBody s).done = s.done := (congrArg State.done (mixRunBody_frame s) :)
@[simp] theorem mixRunBody_err : (mixRunBody s).err = s.err := (congrArg State.err (mixRunBody_frame s) :)
@[simp] theorem mixRunBody_ecode : (mixRunBody s).ecode = s.ecode := (congrArg State.ecode (mixRunBody_frame s) :)
@[simp] theorem mixRunBody_ieDone : (mixRunBody s).ieDone = s.ieDone := (congrArg State.ieDone (mixRunBody_frame s) :)
@[simp] theorem mixRunBody_ieErr : (mixRunBody s).ieErr = s.ieErr := (congrArg State.ieErr (mixRunBody_frame s) :)
@[simp] theorem mixRunBody_kReq : (mixRunBody s).kReq = s.kReq := (congrArg State.kReq (mixRunBody_frame s) :)
@[simp] theorem mixRunBody_keccakAnswers : (mixRunBody s).keccakAnswers = s.keccakAnswers :=
  (congrArg State.keccakAnswers (mixRunBody_frame s) :)
@[simp] theorem mixRunBody_reply : (mixRunBody s).reply = s.reply := (congrArg State.reply (mixRunBody_frame s) :)
@[simp] theorem mixRunBody_draws : (mixRunBody s).draws = s.draws := (congrArg State.draws (mixRunBody_frame s) :)
@[simp] theorem mixRunBody_inputs : (mixRunBody s).inputs = s.inputs := (congrArg State.inputs (mixRunBody_frame s) :)

/-! ### Control fields that bytes written to a region leave alone (spec/20 R61) -/

section
variable (r : Region) (off : Nat) (v : Word) (n : Nat)

@[simp] theorem State.setRegionBytes_mixReady : (s.setRegionBytes r off v n).mixReady = s.mixReady :=
  (congrArg State.mixReady (setRegionBytes_frame s r off v n) :)
@[simp] theorem State.setRegionBytes_iter : (s.setRegionBytes r off v n).iter = s.iter :=
  (congrArg State.iter (setRegionBytes_frame s r off v n) :)
@[simp] theorem State.setRegionBytes_msglen : (s.setRegionBytes r off v n).msglen = s.msglen :=
  (congrArg State.msglen (setRegionBytes_frame s r off v n) :)
@[simp] theorem State.setRegionBytes_pend : (s.setRegionBytes r off v n).pend = s.pend :=
  (congrArg State.pend (setRegionBytes_frame s r off v n) :)
@[simp] theorem State.setRegionBytes_busy : (s.setRegionBytes r off v n).busy = s.busy :=
  (congrArg State.busy (setRegionBytes_frame s r off v n) :)
@[simp] theorem State.setRegionBytes_done : (s.setRegionBytes r off v n).done = s.done :=
  (congrArg State.done (setRegionBytes_frame s r off v n) :)
@[simp] theorem State.setRegionBytes_err : (s.setRegionBytes r off v n).err = s.err :=
  (congrArg State.err (setRegionBytes_frame s r off v n) :)
@[simp] theorem State.setRegionBytes_ecode : (s.setRegionBytes r off v n).ecode = s.ecode :=
  (congrArg State.ecode (setRegionBytes_frame s r off v n) :)
@[simp] theorem State.setRegionBytes_kReq : (s.setRegionBytes r off v n).kReq = s.kReq :=
  (congrArg State.kReq (setRegionBytes_frame s r off v n) :)
@[simp] theorem State.setRegionBytes_keccakAnswers :
    (s.setRegionBytes r off v n).keccakAnswers = s.keccakAnswers :=
  (congrArg State.keccakAnswers (setRegionBytes_frame s r off v n) :)

end

/-! ### A command is its body, then the end of its completion step -/

/-- What a command does to the registers before its completion step ends (spec/20 R63); a transaction is no command
and does nothing here. `exec_command_cases` ties it to `exec`. -/
def commandBody : Instr → State → State
  | .nop, s => s
  | .keyexp, s => { s with rk := expandKey s.key }
  | .enc10, s => { s with blk := encryptRounds s.blk s.rk }
  | .enc1, s => { s with blk := encryptSingleRound s.blk s.rkey }
  | .spInit, s => spInitBody s
  | .mixInit v, s => mixInitBody v s
  | .mixStep, s => mixStepBody s
  | .mixRun, s => mixRunBody s
  | .compress, s => compressBody s
  | .kperm, s => kpermBody s
  | .hash v, s => hashBody v s
  | .rd8 _, s | .rd16 _, s | .rd32 _, s | .wr8 _ _, s | .wr16 _ _, s | .wr32 _ _, s => s

variable {s} {t : State} {i : Instr}

/-- What the completion step of a command can do: wait for the Keccak unit, or run the body and end (spec/20 R63,
spec/43 R183, log 5). -/
theorem exec_command_cases (hi : i.isCommand = true) (h : exec i s = .next t) :
    (usesKeccak i = true ∧ s.keccakAnswers = false ∧ t = s.awaitKeccak) ∨
    ((usesKeccak i = true → s.keccakAnswers = true) ∧ t = (commandBody i s).complete) := by
  have keccak : ∀ u : State, Host.Outcome.next (if s.keccakAnswers then u else s.awaitKeccak) =
      (.next t : Host.Outcome State Fault Refusal) →
      (s.keccakAnswers = false ∧ t = s.awaitKeccak) ∨ (s.keccakAnswers = true ∧ t = u) := by
    intro u hu
    cases ha : s.keccakAnswers
    · exact .inl ⟨rfl, by simpa [ha] using hu.symm⟩
    · exact .inr ⟨rfl, by simpa [ha] using hu.symm⟩
  cases i with
  | kperm => exact (keccak _ h).imp (⟨rfl, ·⟩) (.imp_left fun ha _ => ha)
  | hash v => exact (keccak _ h).imp (⟨rfl, ·⟩) (.imp_left fun ha _ => ha)
  | nop | keyexp | enc10 | enc1 | spInit | mixInit | mixStep | mixRun | compress =>
    exact .inr ⟨nofun, (Host.Outcome.next.inj h).symm⟩
  | rd8 | rd16 | rd32 | wr8 | wr16 | wr32 => cases hi

variable (i s)

/-- The registers and flags that no command's body writes (spec/10 R24, R26, R28, R33, R35, R36). -/
theorem commandBody_untouched :
    let t := commandBody i s
    t.key = s.key ∧ t.rkey = s.rkey ∧ t.nonce = s.nonce ∧ t.msglen = s.msglen ∧ t.err = s.err ∧ t.ecode = s.ecode ∧
    t.ieDone = s.ieDone ∧ t.ieErr = s.ieErr ∧ t.keccakAnswers = s.keccakAnswers ∧ t.reply = s.reply ∧
    t.draws = s.draws ∧ t.inputs = s.inputs := by
  cases i <;> simp [commandBody, mixStepBody, hashBody, hashStages]

variable {i}

theorem commandBody_rk (h : writesRk i = false) : (commandBody i s).rk = s.rk := by
  cases i with
  | keyexp | spInit | compress | hash => cases h
  | _ => simp [commandBody, mixStepBody]

theorem commandBody_sp (h : writesSp i = false) : (commandBody i s).sp = s.sp := by
  cases i with
  | spInit | mixStep | mixRun | compress | hash => cases h
  | _ => simp [commandBody]

theorem commandBody_state (h : writesState i = false) : (commandBody i s).state = s.state := by
  cases i with
  | compress | kperm | hash => cases h
  | _ => simp [commandBody, mixStepBody]

theorem commandBody_mixer (h : writesMixer i = false) :
    (commandBody i s).a = s.a ∧ (commandBody i s).b = s.b ∧ (commandBody i s).iter = s.iter := by
  cases i with
  | mixInit | mixStep | mixRun | hash => cases h
  | _ => simp [commandBody]

theorem commandBody_variant (h : latchesVariant i = false) :
    (commandBody i s).tweak = s.tweak ∧ (commandBody i s).varL = s.varL ∧
      (commandBody i s).mixReady = s.mixReady := by
  cases i with
  | mixInit | hash => cases h
  | _ => simp [commandBody, mixStepBody]

theorem commandBody_blk (h : writesBlk i = false) : (commandBody i s).blk = s.blk := by
  cases i with
  | enc10 | enc1 => cases h
  | _ => simp [commandBody, mixStepBody, hashBody, hashStages]

/-- The commands that latch the variant are MIX_INIT and HASH (spec/10 R30). -/
theorem latchesVariant_iff : latchesVariant i = true ↔ ∃ v, i = .mixInit v ∨ i = .hash v := by
  cases i <;> simp [latchesVariant]

theorem commandBody_mixReady_of_latches (h : latchesVariant i = true) : (commandBody i s).mixReady = true := by
  obtain ⟨v, rfl | rfl⟩ := latchesVariant_iff.mp h
  · exact mixInitBody_mixReady s v
  · simp [commandBody, hashBody, hashStages]

variable {s}

/-- Every command keeps SP in canonical form (log 2). -/
theorem wf_commandBody (h : Memory.wf s.sp = true) : Memory.wf (commandBody i s).sp = true := by
  cases i with
  | spInit => exact wf_spInitBody h
  | mixStep => exact wf_mixIteration h _
  | mixRun => exact wf_mixRunBody h
  | compress => exact wf_compressBody h
  | hash v => exact wf_hashBody v h
  | nop | keyexp | enc10 | enc1 | mixInit | kperm | rd8 | rd16 | rd32 | wr8 | wr16 | wr32 =>
    rw [commandBody_sp s rfl]; exact h

/-- ITER stays within 2^19 over every command, where MIX_STEP starts below the bound (spec/10 R32). -/
theorem commandBody_iter_le (h : s.iter.toNat ≤ mixIterations)
    (hstep : i = .mixStep → s.iter.toNat < mixIterations) : (commandBody i s).iter.toNat ≤ mixIterations := by
  cases i with
  | mixInit v => simp [commandBody]
  | mixStep =>
    have hlt := hstep rfl
    have hsucc : (commandBody .mixStep s).iter = s.iter + 1 := mixIteration_iter s _
    rw [hsucc, BitVec.toNat_add]
    exact (Nat.mod_le _ _).trans hlt
  | mixRun => exact mixLoop_iter_le _ h
  | hash v =>
    have hloop : (mixRunBody (mixInitBody v (spInitBody s))).iter.toNat ≤ mixIterations :=
      mixLoop_iter_le _ (by simp)
    simpa [commandBody, hashBody, hashStages] using hloop
  | nop | keyexp | enc10 | enc1 | spInit | compress | kperm | rd8 | rd16 | rd32 | wr8 | wr16 | wr32 =>
    rw [(commandBody_mixer s rfl).2.2]; exact h

/-! ### A bus transaction is a read or a write -/

/-- What executing a bus transaction is: a read or a write of some size (spec/44 R200, R201). -/
theorem exec_transaction_cases (hi : i.isCommand = false) (h : exec i s = .next t) :
    (∃ z addr, t = s.hostRead z addr) ∨ (∃ z addr d, t = s.hostWrite z addr d) := by
  have ht := fun {u : State} (hu : .next u = (.next t : Host.Outcome State Fault Refusal)) =>
    (Host.Outcome.next.inj hu).symm
  cases i with
  | rd8 | rd16 | rd32 => exact .inl ⟨_, _, ht h⟩
  | wr8 | wr16 | wr32 => exact .inr ⟨_, _, _, ht h⟩
  | nop | keyexp | enc10 | enc1 | spInit | mixInit | mixStep | mixRun | compress | kperm | hash => cases hi

/-- Issuing a command does not move MIX_READY. -/
@[simp] theorem issueCommand_mixReady (s : State) (w : Word) : (s.issueCommand w).mixReady = s.mixReady := by
  rcases issueCommand_cases s w with ⟨e, -, -, h⟩ | ⟨-, -, h⟩ <;> rw [h] <;> rfl

/-- No bus transaction moves MIX_READY (spec/10 R31). -/
theorem exec_transaction_mixReady (hi : i.isCommand = false) (h : exec i s = .next t) : t.mixReady = s.mixReady := by
  rcases exec_transaction_cases hi h with ⟨z, addr, rfl⟩ | ⟨z, addr, d, rfl⟩
  · rcases hostRead_cases s z addr with ⟨e, -, hr⟩ | ⟨v, n, hr⟩ <;> simp [hr]
  · rcases hostWrite_cases s z addr d with ⟨e, -, hw⟩ | hw | hw | hw | ⟨-, hw⟩ | ⟨-, r, -, -, -, hw⟩ <;> simp [hw]

/-- No region is longer than SP (spec/20 R61). -/
theorem regionOf_bytes_le {addr : Nat} {r : RegionRow} (hr : regionOf addr = some r) : r.bytes ≤ spSize := by
  have hrows : ∀ r ∈ regionRows, r.bytes ≤ 2097152 := by decide
  rw [spSize_eq]
  exact hrows r (regionOf_some hr).1

/-! ### While no command runs -/

/-- No command runs while BUSY = 0 (spec/10 R34). -/
theorem running_eq_none_of_idle (hb : s.busy = false) : s.running = none := by
  simp [State.running, hb]

/-- While BUSY = 0 no access hits a write set (spec/44 R206). -/
theorem hitsWriteSet_of_idle (hb : s.busy = false) (r : Region) (off n : Nat) : s.hitsWriteSet r off n = false := by
  simp [State.hitsWriteSet, running_eq_none_of_idle hb]

/-- While BUSY = 0 STATUS is read as it stands (spec/44 R206, R209). -/
theorem readStatus_of_idle (hb : s.busy = false) : s.readStatus = (s.statusWord, 0) := by
  simp [State.readStatus, running_eq_none_of_idle hb]

/-- RD32 of a word-only register other than CMD, outside the write set, answers its value (spec/44 R200, R209). -/
theorem hostRead_wordOnly {addr : Nat} {r : RegionRow} (hr : regionOf addr = some r) (hal : addr % 4 = 0)
    (hcls : r.cls = .wordOnly) (hcmd : r.region ≠ .cmd)
    (hfree : s.hitsWriteSet r.region (addr - r.start) 4 = false) :
    s.hostRead .four addr = s.answerRead (s.regValue r.region).1 (s.regValue r.region).2 := by
  simp [State.hostRead, Size.bytes, hr, hal, hcls, hcmd, hfree]

/-! ### The fields of the STATUS word (spec/10 R35, spec/44 R209) -/

theorem getLsbD_bit32 (b : Bool) (j : Nat) : (bit32 b).getLsbD j = (decide (j = 0) && b) := by
  cases j <;> simp [bit32]

theorem getLsbD_bit32_shiftLeft (b : Bool) (k j : Nat) (hj : j < 32) :
    (bit32 b <<< k).getLsbD j = (decide (j = k) && b) := by
  have hk : (¬ j < k ∧ j - k = 0) ↔ j = k := by omega
  rw [BitVec.getLsbD_shiftLeft, getLsbD_bit32]
  simp only [hj, decide_true, Bool.true_and, ← Bool.and_assoc, ← decide_not, ← Bool.decide_and, hk]

/-- SEL is the two low bits of STATE's byte 0 (spec/10 R40). -/
theorem sel_eq_byteAt (s : State) : s.sel = (byteAt s.state 0).extractLsb' 0 2 := by
  apply BitVec.eq_of_getLsbD_eq
  intro j hj
  have h8 : j < 8 := by omega
  simp only [State.sel, selOf, BitVec.getLsbD_extractLsb', getLsbD_byteAt, Nat.mul_zero, Nat.zero_add, h8, decide_true,
    Bool.true_and]

/-- A field of a word is what its bits are. -/
theorem extractLsb'_eq_of_getLsbD {w n off : Nat} {v : BitVec w} {x : BitVec n}
    (h : ∀ j, j < n → v.getLsbD (off + j) = x.getLsbD j) : v.extractLsb' off n = x := by
  apply BitVec.eq_of_getLsbD_eq
  intro j hj
  rw [BitVec.getLsbD_extractLsb', h j hj, decide_eq_true hj, Bool.true_and]

section
variable {busy done err : Bool} {ecode : ErrorCode} {mixReady : Bool} {sel : BitVec 2} {varL : BitVec 8}

/-- Every bit of the STATUS word: each field at its place, 0 elsewhere. -/
theorem getLsbD_statusOf {j : Nat} (hj : j < 32) :
    (statusOf busy done err ecode mixReady sel varL).getLsbD j =
      ((decide (j = 0) && busy) || (decide (j = 1) && done) || (decide (j = 2) && err) ||
        (decide (4 ≤ j) && ecode.code.getLsbD (j - 4)) || (decide (j = 8) && mixReady) ||
        (decide (12 ≤ j) && sel.getLsbD (j - 12)) || (decide (24 ≤ j) && varL.getLsbD (j - 24))) := by
  have hsub : ∀ k, j - k < 32 := fun k => by omega
  simp only [statusOf, BitVec.getLsbD_or, getLsbD_bit32_shiftLeft _ _ _ hj, getLsbD_bit32,
    BitVec.getLsbD_shiftLeft, BitVec.getLsbD_setWidth, hj, hsub, decide_true, Bool.true_and, ← decide_not, Nat.not_lt]

variable (busy done err ecode mixReady sel varL)

/-- The flags of the STATUS word and its reserved bit 3. -/
theorem statusOf_flags :
    let v := statusOf busy done err ecode mixReady sel varL
    v.getLsbD 0 = busy ∧ v.getLsbD 1 = done ∧ v.getLsbD 2 = err ∧ v.getLsbD 3 = false ∧ v.getLsbD 8 = mixReady := by
  refine ⟨?_, ?_, ?_, ?_, ?_⟩ <;> rw [getLsbD_statusOf (by decide)] <;> simp

/-- ECODE is bits [7:4] of the STATUS word. -/
theorem statusOf_ecode : (statusOf busy done err ecode mixReady sel varL).extractLsb' 4 4 = ecode.code :=
  extractLsb'_eq_of_getLsbD fun j hj => by
    rw [getLsbD_statusOf (by omega)]
    interval_cases j <;> simp

/-- SEL is bits [13:12] of the STATUS word. -/
theorem statusOf_sel : (statusOf busy done err ecode mixReady sel varL).extractLsb' 12 2 = sel :=
  extractLsb'_eq_of_getLsbD fun j hj => by
    rw [getLsbD_statusOf (by omega)]
    interval_cases j <;> simp

/-- VAR_L is bits [31:24] of the STATUS word. -/
theorem statusOf_varL : (statusOf busy done err ecode mixReady sel varL).extractLsb' 24 8 = varL :=
  extractLsb'_eq_of_getLsbD fun j hj => by
    rw [getLsbD_statusOf (by omega)]
    interval_cases j <;> simp

/-- Bits [11:9] and [23:14] of the STATUS word are reserved. -/
theorem statusOf_reserved :
    let v := statusOf busy done err ecode mixReady sel varL
    v.extractLsb' 9 3 = 0 ∧ v.extractLsb' 14 10 = 0 := by
  constructor <;> refine extractLsb'_eq_of_getLsbD fun j hj => ?_
  all_goals
    rw [getLsbD_statusOf (by omega)]
    interval_cases j <;> simp

end

end Sys2Proof.Machine
end

section
/-! SUPPORT. The invariant of the state, kept by every update a step is made of (spec/10 R32 to R35). Two shapes cover
them: an update that leaves no command pending (`State.Inv.of_idle`), and one that leaves the pending command and all
that its issue looked at alone (`State.Inv.of_sameCommand`). -/

namespace Sys2Proof.Machine

open Sys2Proof.Claims

variable {s t : State} {i : Instr}

/-! ### What the issue check looks at -/

/-- The issue check looks at BUSY, MIX_READY, ITER and MSGLEN only (spec/60 R235). -/
theorem issueError_congr (s t : State) (hbusy : t.busy = s.busy) (hmix : t.mixReady = s.mixReady)
    (hiter : t.iter = s.iter) (hmsglen : t.msglen = s.msglen) {w : Word} : issueError t w = issueError s w := by
  simp only [issueError, hbusy, hmix, hiter, hmsglen]

/-- The running command is given by BUSY and PEND (spec/10 R34). -/
theorem running_congr (hbusy : t.busy = s.busy) (hpend : t.pend = s.pend) : t.running = s.running := by
  simp only [State.running, hbusy, hpend]

/-- A MIX_STEP that passes its issue checks finds ITER off its bound (spec/60 R235). -/
theorem iter_ne_of_issueError_mixStep {w : Word} (hb : s.busy = false) (hd : decodeCommand w = .ok .mixStep)
    (h : issueError s w = none) : s.iter ≠ BitVec.ofNat 20 mixIterations := by
  rintro hiter
  simp [issueError, hb, hd, hiter] at h

/-! ### What the invariant says of an idle block and of a running MIX_STEP -/

/-- While BUSY = 0 nothing is pending (spec/10 R34). -/
theorem State.Inv.pend_of_idle (h : s.Inv) (hb : s.busy = false) : s.pend = none := by
  simpa [hb] using h.busyPend

/-- While BUSY = 0 the Keccak request is not held (spec/43 R183). -/
theorem State.Inv.kReq_of_idle (h : s.Inv) (hb : s.busy = false) : s.kReq = false := by
  by_contra hk
  simpa [running_eq_none_of_idle hb] using (h.keccakHeld (by simpa using hk)).2

/-- While a MIX_STEP runs ITER is below 2^19, as at its issue (spec/10 R32, spec/60 R235). -/
theorem State.Inv.iter_lt_of_mixStep (h : s.Inv) (hr : s.running = some .mixStep) : s.iter.toNat < mixIterations := by
  obtain ⟨-, w, hp, hd⟩ := running_cases hr
  have hne : s.iter ≠ BitVec.ofNat 20 mixIterations :=
    iter_ne_of_issueError_mixStep (s := { s with busy := false }) rfl hd (h.pendIssued w hp)
  refine lt_of_le_of_ne h.iterBound fun heq => hne ?_
  rw [← heq, BitVec.ofNat_toNat, BitVec.setWidth_eq]

/-! ### The two shapes of an update -/

/-- With no command pending and no Keccak request, what is left of the invariant is about SP, ITER and ECODE. -/
theorem State.Inv.of_idle (hbusy : t.busy = false) (hpend : t.pend = none) (hkReq : t.kReq = false)
    (hsp : Memory.wf t.sp = true) (hiter : t.iter.toNat ≤ mixIterations) (herr : t.err = false ↔ t.ecode = .none) :
    t.Inv where
  spWf := hsp
  busyPend := by rw [hbusy, hpend]; rfl
  pendIssued w hw := by rw [hpend] at hw; cases hw
  busyNotDone hb := by rw [hbusy] at hb; cases hb
  iterBound := hiter
  errCode := herr
  keccakHeld hk := by rw [hkReq] at hk; cases hk

/-- The update left alone the pending command, all that its issue looked at, and the Keccak port. -/
structure State.SameCommand (s t : State) : Prop where
  busy : t.busy = s.busy
  pend : t.pend = s.pend
  mixReady : t.mixReady = s.mixReady
  iter : t.iter = s.iter
  msglen : t.msglen = s.msglen
  kReq : t.kReq = s.kReq
  keccakAnswers : t.keccakAnswers = s.keccakAnswers

/-- With the pending command left alone, what is left of the invariant is about SP, DONE and ECODE. -/
theorem State.Inv.of_sameCommand (h : s.Inv) (hc : s.SameCommand t) (hsp : Memory.wf t.sp = true)
    (hdone : s.done = false → t.done = false) (herr : t.err = false ↔ t.ecode = .none) : t.Inv where
  spWf := hsp
  busyPend := by rw [hc.busy, hc.pend, h.busyPend]
  pendIssued w hw :=
    (issueError_congr { s with busy := false } { t with busy := false } rfl hc.mixReady hc.iter hc.msglen).trans
      (h.pendIssued w (hc.pend ▸ hw))
  busyNotDone hb := hdone (h.busyNotDone (hc.busy ▸ hb))
  iterBound := by rw [hc.iter]; exact h.iterBound
  errCode := herr
  keccakHeld hk := by
    rw [hc.keccakAnswers, running_congr hc.busy hc.pend]
    exact h.keccakHeld (hc.kReq ▸ hk)

/-! ### Every update keeps the invariant -/

/-- The inputs are no part of the invariant. -/
theorem State.Inv.withInputs (h : s.Inv) (rest : List Event) : ({ s with inputs := rest } : State).Inv :=
  h.of_sameCommand ⟨rfl, rfl, rfl, rfl, rfl, rfl, rfl⟩ h.spWf id h.errCode

theorem State.Inv.answer (h : s.Inv) (r : Resp) (d : Option Word) : (s.answer r d).Inv :=
  h.of_sameCommand ⟨rfl, rfl, rfl, rfl, rfl, rfl, rfl⟩ h.spWf id h.errCode

theorem State.Inv.answerRead (h : s.Inv) (v : Word) (n : Nat) : (s.answerRead v n).Inv :=
  h.of_sameCommand ⟨rfl, rfl, rfl, rfl, rfl, rfl, rfl⟩ h.spWf id h.errCode

/-- Recording an error keeps ECODE away from 0 (spec/60 R232). -/
theorem State.Inv.recordError (h : s.Inv) {e : ErrorCode} (he : e ≠ .none) : (s.recordError e).Inv := by
  refine h.of_sameCommand ⟨rfl, rfl, rfl, rfl, rfl, rfl, rfl⟩ h.spWf id ?_
  have hcode := h.errCode
  cases hs : s.err <;> simp_all

theorem State.Inv.raiseBus (h : s.Inv) {e : ErrorCode} (he : e ≠ .none) (isRead : Bool) : (s.raiseBus e isRead).Inv :=
  (h.recordError he).answer _ _

theorem State.Inv.statusWrite (h : s.Inv) (w : Word) : (s.statusWrite w).Inv := by
  refine h.of_sameCommand ⟨rfl, rfl, rfl, rfl, rfl, rfl, rfl⟩ h.spWf (fun hd => by simp [hd]) ?_
  cases hw : w.getLsbD 2 <;> simp [hw, h.errCode]

theorem State.Inv.ctrlWrite (h : s.Inv) (w : Word) : (s.ctrlWrite w).Inv :=
  h.of_sameCommand ⟨rfl, rfl, rfl, rfl, rfl, rfl, rfl⟩ h.spWf id h.errCode

/-- Accepting a word that passes the issue checks makes it the pending command (spec/44 R205). -/
theorem State.Inv.accept (h : s.Inv) {w : Word} (hb : s.busy = false) (hw : issueError s w = none) :
    (s.accept w).Inv where
  spWf := h.spWf
  busyPend := rfl
  pendIssued v hv := by
    obtain rfl : w = v := Option.some.inj hv
    exact (issueError_congr s { s.accept w with busy := false } hb.symm rfl rfl rfl).trans hw
  busyNotDone _ := rfl
  iterBound := h.iterBound
  errCode := h.errCode
  keccakHeld hk := by
    rw [State.accept_kReq, h.kReq_of_idle hb] at hk
    cases hk

theorem State.Inv.issueCommand (h : s.Inv) (w : Word) : (s.issueCommand w).Inv := by
  rcases issueCommand_cases s w with ⟨e, he, -, hs⟩ | ⟨hw, hb, hs⟩ <;> rw [hs]
  · exact h.recordError he
  · exact h.accept hb hw

/-- MSGLEN is written only while nothing is pending (spec/44 R201, R207). -/
theorem State.Inv.withMsglen (h : s.Inv) (hb : s.busy = false) (d : Word) : ({ s with msglen := d } : State).Inv :=
  .of_idle hb (h.pend_of_idle hb) (h.kReq_of_idle hb) h.spWf h.iterBound h.errCode

/-- Bytes written inside a region keep the invariant. -/
theorem State.Inv.setRegionBytes (h : s.Inv) (r : Region) (off : Nat) (v : Word) (n : Nat)
    (hin : r = .sp → off + n ≤ spSize) : (s.setRegionBytes r off v n).Inv := by
  refine h.of_sameCommand ?_ (wf_setRegionBytes h.spWf r off v n hin) (by simp) (by simpa using h.errCode)
  constructor <;> simp

/-- A waiting KPERM or HASH holds the Keccak request (spec/43 R183, spec/60 R248). -/
theorem State.Inv.awaitKeccak (h : s.Inv) (hr : s.running = some i) (hi : usesKeccak i = true)
    (ha : s.keccakAnswers = false) : s.awaitKeccak.Inv where
  spWf := h.spWf
  busyPend := h.busyPend
  pendIssued w hw :=
    (issueError_congr { s with busy := false } { s.awaitKeccak with busy := false } rfl rfl rfl rfl).trans
      (h.pendIssued w hw)
  busyNotDone := h.busyNotDone
  iterBound := h.iterBound
  errCode := h.errCode
  keccakHeld _ := by
    have hrun : s.awaitKeccak.running = some i := hr
    refine ⟨ha, ?_⟩
    cases i with
    | kperm => exact .inl hrun
    | hash v => exact .inr ⟨v, hrun⟩
    | nop | keyexp | enc10 | enc1 | spInit | mixInit | mixStep | mixRun | compress | rd8 | rd16 | rd32 | wr8 | wr16
    | wr32 => cases hi

/-- The state after reset meets the invariant (spec/10 R42). -/
theorem inv_reset : State.reset.Inv :=
  .of_idle rfl rfl rfl rfl (Nat.zero_le _) (iff_of_true rfl rfl)

/-- Whatever a reset during a run leaves in SP, the invariant holds after it (spec/10 R42, spec/70 R260). -/
theorem inv_resetStep (s : State) : s.resetStep.Inv :=
  .of_idle rfl rfl rfl (Memory.wf_ofFn _ _ le_rfl) (Nat.zero_le _) (iff_of_true rfl rfl)

/-! ### Every step keeps the invariant -/

/-- The completion step of the running command keeps the invariant (spec/20 R63). -/
theorem State.Inv.exec_running (h : s.Inv) (hr : s.running = some i) (he : exec i s = .next t) : t.Inv := by
  obtain ⟨-, w, -, hd⟩ := running_cases hr
  rcases exec_command_cases (isCommand_of_decodeCommand hd) he with ⟨hk, ha, rfl⟩ | ⟨-, rfl⟩
  · exact h.awaitKeccak hr hk ha
  · obtain ⟨-, -, -, -, herr, hecode, -⟩ := commandBody_untouched s i
    refine .of_idle rfl rfl rfl (wf_commandBody h.spWf) ?_ ?_
    · exact commandBody_iter_le h.iterBound fun hi => h.iter_lt_of_mixStep (hi ▸ hr)
    · rw [State.complete_err, State.complete_ecode, herr, hecode]
      exact h.errCode

/-- A read of the window keeps the invariant (spec/44 R200). -/
theorem State.Inv.hostRead (h : s.Inv) (z : Size) (addr : Nat) : (s.hostRead z addr).Inv := by
  rcases hostRead_cases s z addr with ⟨e, he, hs⟩ | ⟨v, n, hs⟩ <;> rw [hs]
  · exact h.raiseBus (by rcases he with rfl | rfl <;> decide) true
  · exact h.answerRead v n

/-- A write to the window keeps the invariant (spec/44 R201, R207). -/
theorem State.Inv.hostWrite (h : s.Inv) (z : Size) (addr : Nat) (d : Word) : (s.hostWrite z addr d).Inv := by
  rcases hostWrite_cases s z addr d with
    ⟨e, he, hs⟩ | hs | hs | hs | ⟨hb, hs⟩ | ⟨-, r, hr, hal, -, hs⟩ <;> rw [hs]
  · exact h.raiseBus he false
  · exact (h.issueCommand d).answer _ _
  · exact (h.statusWrite d).answer _ _
  · exact (h.ctrlWrite d).answer _ _
  · exact (h.withMsglen hb d).answer _ _
  · refine (h.setRegionBytes _ _ _ _ fun hsp => ?_).answer _ _
    exact (access_inside hr hal).trans (regionOf_bytes_le hr)

/-- A bus transaction keeps the invariant. -/
theorem State.Inv.exec_transaction (h : s.Inv) (hi : i.isCommand = false) (he : exec i s = .next t) : t.Inv := by
  rcases exec_transaction_cases hi he with ⟨z, addr, rfl⟩ | ⟨z, addr, d, rfl⟩
  · exact h.hostRead z addr
  · exact h.hostWrite z addr d

/-- What a step can do to MIX_READY: keep it, set it by a command that latches the variant, or reset the block
(spec/10 R31). -/
theorem step_mixReady_cases (h : step s = .next t) :
    t.mixReady = s.mixReady ∨
    (∃ i, s.running = some i ∧ latchesVariant i = true ∧ t.mixReady = true) ∨
    ((∃ rest, s.inputs = .rst :: rest) ∧ t.mixReady = false) := by
  rcases step_cases h with ⟨rest, -, ⟨-, rfl⟩ | ⟨i, hr, he⟩⟩ | ⟨x, rest, -, ⟨i, hd, he⟩ | ⟨e, -, rfl⟩⟩ | ⟨rest, hs, rfl⟩
  · exact .inl rfl
  · obtain ⟨-, w, -, hd⟩ := running_cases hr
    rcases exec_command_cases (isCommand_of_decodeCommand hd) he with ⟨-, -, rfl⟩ | ⟨-, rfl⟩
    · exact .inl rfl
    · cases hl : latchesVariant i
      · exact .inl (commandBody_variant _ hl).2.2
      · exact .inr (.inl ⟨i, hr, hl, commandBody_mixReady_of_latches _ hl⟩)
  · exact .inl (exec_transaction_mixReady (isCommand_of_decodeTxn hd) he :)
  · exact .inl rfl
  · exact .inr (.inr ⟨⟨rest, hs⟩, rfl⟩)

end Sys2Proof.Machine
end

section
/-! The statements of the family of spec/10, the state. -/

namespace Sys2Proof.Machine

open Sys2Proof.Claims

/-- Settles O13: each outcome of `step_cases` is an update that keeps the invariant. -/
theorem stepKeepsInvariant : Obligations.StepKeepsInvariant := by
  intro s t h hstep
  rcases step_cases hstep with
    ⟨rest, -, ⟨-, rfl⟩ | ⟨i, hr, he⟩⟩ | ⟨x, rest, -, ⟨i, hd, he⟩ | ⟨e, -, rfl⟩⟩ | ⟨rest, -, rfl⟩
  · exact h.withInputs rest
  · exact (h.withInputs rest).exec_running hr he
  · exact (h.withInputs rest).exec_transaction (isCommand_of_decodeTxn hd) he
  · exact (h.withInputs rest).raiseBus (by decide) _
  · exact inv_resetStep _

/-- Settles O15, from what a step can do to MIX_READY. -/
theorem mixReadyRisesByMixInitOrHashAndFallsByReset : Obligations.MixReadyRisesByMixInitOrHashAndFallsByReset := by
  intro s t hstep
  rcases step_mixReady_cases hstep with heq | ⟨i, hr, hl, ht⟩ | ⟨hreset, ht⟩
  · rw [heq]
    exact ⟨fun h0 h1 => absurd (h0.symm.trans h1) nofun, fun h1 h0 => absurd (h0.symm.trans h1) nofun⟩
  · obtain ⟨v, rfl | rfl⟩ := latchesVariant_iff.mp hl
    · exact ⟨fun _ _ => ⟨v, .inl hr⟩, fun _ h0 => absurd (h0.symm.trans ht) nofun⟩
    · exact ⟨fun _ _ => ⟨v, .inr hr⟩, fun _ h0 => absurd (h0.symm.trans ht) nofun⟩
  · exact ⟨fun _ h1 => absurd (ht.symm.trans h1) nofun, fun _ _ => hreset⟩

/-- Settles O23: while idle the read answers the STATUS word itself. -/
theorem statusReadShowsEveryField : Obligations.StatusReadShowsEveryField := by
  intro s hb
  have hrow : regionOf (0x200104 : WinAddr).toNat = some ⟨0x200104, 4, .status, .wordOnly, .rwW1c⟩ := by decide
  have hread : exec (.rd32 0x200104) s = .next (replied s .ok (some s.statusWord)) := by
    show Host.Outcome.next _ = _
    rw [hostRead_wordOnly hrow rfl rfl nofun (hitsWriteSet_of_idle hb _ _ _), State.regValue, readStatus_of_idle hb]
    rfl
  obtain ⟨hbusy, hdone, herr, hbit3, hmix⟩ := statusOf_flags s.busy s.done s.err s.ecode s.mixReady s.sel s.varL
  obtain ⟨hlow, hhigh⟩ := statusOf_reserved s.busy s.done s.err s.ecode s.mixReady s.sel s.varL
  exact ⟨s.statusWord, hread, hbusy, hdone, herr, hbit3, statusOf_ecode .., hmix, hlow,
    (statusOf_sel ..).trans (sel_eq_byteAt s), hhigh, statusOf_varL ..⟩

/-- Settles O54, from the frame of a command's body, register by register. -/
theorem commandsWriteOnlyTheirRegisters : Obligations.CommandsWriteOnlyTheirRegisters := by
  intro s t i hi he
  rcases exec_command_cases hi he with ⟨-, -, rfl⟩ | ⟨-, rfl⟩
  · simp
  · obtain ⟨hkey, hrkey, hnonce, hmsglen, herr, hecode, hieDone, hieErr, hanswers, hreply, hdraws, hinputs⟩ :=
      commandBody_untouched s i
    exact ⟨hkey, hrkey, hnonce, hmsglen, herr, hecode, hieDone, hieErr, hanswers, hreply, hdraws, hinputs,
      commandBody_rk s, commandBody_sp s, commandBody_state s, commandBody_mixer s, commandBody_variant s,
      commandBody_blk s⟩

/-- Settles O6: the fetch hands the decoded transaction to `exec`. -/
theorem stepPerformsHostTransaction : Obligations.StepPerformsHostTransaction := by
  intro s t rest i hin hd
  simp only [step, fetch, hin, fetchHost, hd, perform]

/-- Settles O10: the fields of the reset state, as spec/10 R42 lists them. -/
theorem resetStateHoldsSpecValues : Obligations.ResetStateHoldsSpecValues :=
  ⟨rfl, rfl, rfl, rfl, rfl, rfl, rfl, rfl, rfl, rfl, rfl, rfl, rfl, rfl⟩

/-- Settles O12: nothing is pending, SP is empty, ITER is 0 and no error is recorded. -/
theorem resetMeetsInvariant : Obligations.ResetMeetsInvariant := inv_reset

end Sys2Proof.Machine
end

section
/-! SUPPORT. The rules of the address space: the address map as its rows, what a read of a byte array answers, the
scratchpad address in numbers, and that an instruction never stops the block. -/

namespace Sys2Proof.Machine

open Sys2Proof.Claims

/-! ### The address map (spec/20 R61, spec/44 R202) -/

/-- The map written out in the statements is the model's own. -/
theorem windowMap_eq : windowMap = regionRows := by decide

/-- Two rows of the map are one row, or their ranges are disjoint. -/
theorem regionRows_disjoint : ∀ r ∈ regionRows, ∀ q ∈ regionRows,
    r = q ∨ r.start + r.bytes ≤ q.start ∨ q.start + q.bytes ≤ r.start := by decide

/-- Every row lies inside the window of 2^22 bytes (spec/20 R50). -/
theorem regionRows_inside : ∀ r ∈ regionRows, r.start + r.bytes ≤ 4194304 := by decide

/-- CMD is no byte array (spec/20 R59, R61). -/
theorem region_ne_cmd_of_byteArray : ∀ r ∈ regionRows, r.cls = .byteArray → r.region ≠ .cmd := by decide

/-- An address in the range of no row is unmapped. -/
theorem regionOf_eq_none {addr : Nat} (h : ∀ r ∈ regionRows, addr < r.start ∨ r.start + r.bytes ≤ addr) :
    regionOf addr = none := by
  cases hq : regionOf addr with
  | none => rfl
  | some q =>
    obtain ⟨hmem, hlo, hhi⟩ := regionOf_some hq
    have hout := h q hmem
    omega

/-- An address in the range of a row belongs to that row. -/
theorem regionOf_eq_some {addr : Nat} {r : RegionRow} (hr : r ∈ regionRows) (hlo : r.start ≤ addr)
    (hhi : addr < r.start + r.bytes) : regionOf addr = some r := by
  cases hq : regionOf addr with
  | none =>
    have hmiss := List.find?_eq_none.mp hq r hr
    simp [RegionRow.holds, hlo, hhi] at hmiss
  | some q =>
    obtain ⟨hmem, hqlo, hqhi⟩ := regionOf_some hq
    rcases regionRows_disjoint r hr q hmem with rfl | hdisj | hdisj
    · rfl
    · omega
    · omega

/-! ### Reads (spec/44 R200) -/

/-- A read transaction of any size is `State.hostRead`. -/
theorem exec_readOf (z : Size) (addr : WinAddr) (s : State) :
    exec (readOf z addr) s = .next (s.hostRead z addr.toNat) := by
  cases z <;> rfl

variable {s : State}

/-- An aligned read of a byte array outside the write set answers the bytes of the region. -/
theorem hostRead_byteArray {z : Size} {addr : Nat} {r : RegionRow} (hr : regionOf addr = some r)
    (hal : addr % z.bytes = 0) (hcls : r.cls = .byteArray)
    (hfree : s.hitsWriteSet r.region (addr - r.start) z.bytes = false) :
    s.hostRead z addr = s.answerRead (s.regionBytes r.region (addr - r.start) z.bytes) 0 := by
  have hcmd := region_ne_cmd_of_byteArray r (regionOf_some hr).1 hcls
  simp [State.hostRead, hr, hal, hcls, hcmd, hfree]

/-- One byte of a region, zero-extended to the bus (spec/30 R87). -/
theorem regionBytes_one (s : State) (r : Region) (off : Nat) :
    s.regionBytes r off 1 = (s.regionByte r off).setWidth 32 := by
  simp [State.regionBytes, pack]

/-- RD8 of byte i of a byte array, while no command runs, answers that byte. -/
theorem exec_rd8_of_idle (hb : s.busy = false) {r : RegionRow} (hr : r ∈ regionRows) (hcls : r.cls = .byteArray)
    {i : Nat} (hi : i < r.bytes) :
    exec (.rd8 (BitVec.ofNat 22 (r.start + i))) s =
      .next (replied s .ok (some ((s.regionByte r.region i).setWidth 32))) := by
  have hin := regionRows_inside r hr
  have haddr : (BitVec.ofNat 22 (r.start + i)).toNat = r.start + i := by
    rw [BitVec.toNat_ofNat]
    omega
  have hrow : regionOf (r.start + i) = some r := regionOf_eq_some hr (by omega) (by omega)
  have hread := hostRead_byteArray (z := .one) hrow (Nat.mod_one _) hcls (hitsWriteSet_of_idle hb _ _ _)
  rw [Nat.add_sub_cancel_left, Size.bytes, regionBytes_one] at hread
  have hexec := exec_readOf .one (BitVec.ofNat 22 (r.start + i)) s
  rw [haddr, hread] at hexec
  exact hexec

/-! ### The scratchpad address (spec/20 R54) -/

/-- A mask shifted left picks the shifted bits of a number. -/
theorem and_shiftLeft (n m k : Nat) : n &&& m <<< k = (n >>> k &&& m) <<< k := by
  apply Nat.eq_of_testBit_eq
  intro j
  by_cases hj : k ≤ j
  · simp [Nat.testBit_shiftLeft, Nat.testBit_shiftRight, hj]
  · simp [Nat.testBit_shiftLeft, hj]

/-- The address mask keeps bits [20:4] in place. -/
theorem and_addrMask (n : Nat) : n &&& 0x1FFFF0 = n / 2 ^ 4 % 2 ^ 17 * 2 ^ 4 := by
  have hmask : 0x1FFFF0 = (2 ^ 17 - 1) <<< 4 := rfl
  rw [hmask, and_shiftLeft, Nat.and_two_pow_sub_one_eq_mod, Nat.shiftRight_eq_div_pow, Nat.shiftLeft_eq]

theorem spAddr_eq_and (x : Block) : spAddr x = x.toNat % 2 ^ 24 &&& 0x1FFFF0 := by
  simp [spAddr]

theorem toNat_lane0 (x : Block) : (lane0 x).toNat = x.toNat % 2 ^ 64 := by
  simp [lane0]

/-- A scratchpad address is the 17-bit cell number in bits [20:4] of the low lane, times 16. -/
theorem spAddr_eq_mul (x : Block) : spAddr x = (lane0 x).toNat / 2 ^ 4 % 2 ^ 17 * 2 ^ 4 := by
  rw [spAddr_eq_and, and_addrMask, toNat_lane0]
  omega

/-! ### An instruction never stops the block (spec/60 R230) -/

/-- Every instruction, in every state, answers a next state. -/
theorem exec_next (i : Instr) (s : State) : ∃ t, exec i s = .next t := by
  cases i <;> exact ⟨_, rfl⟩

/-- While a command runs, issuing another raises CMD_BUSY (spec/60 R235). -/
theorem issueCommand_of_busy (hb : s.busy = true) (w : Word) : s.issueCommand w = s.raiseCmd .cmdBusy := by
  simp [State.issueCommand, issueError, hb]

end Sys2Proof.Machine
end

section
/-! The statements of the family of spec/20, the memory. -/

namespace Sys2Proof.Machine

open Sys2Proof.Claims

/-- Settles O28, from what a read can do. -/
theorem readsHaveNoSideEffect : Obligations.ReadsHaveNoSideEffect := by
  intro s z addr
  refine ⟨_, exec_readOf z addr s, ?_⟩
  rcases hostRead_cases s z addr.toNat with ⟨e, -, h⟩ | ⟨v, n, h⟩ <;> rw [h]
  · exact .inr ⟨e, rfl⟩
  · exact .inl ⟨v, rfl⟩

/-- Settles O29: the ranges of the rows are disjoint. -/
theorem addressMapHasNoOverlap : Obligations.AddressMapHasNoOverlap := by
  intro addr
  rw [windowMap_eq]
  exact ⟨fun r hr hlo hhi => regionOf_eq_some hr hlo hhi, regionOf_eq_none⟩

/-- Settles O32: of the outcomes of a transaction, the writes of MSGLEN and of bytes need BUSY = 0, and a command word
raises CMD_BUSY. -/
theorem busyHostCannotDisturbCommand : Obligations.BusyHostCannotDisturbCommand := by
  intro s i hi hb
  obtain ⟨t, ht⟩ := exec_next i s
  refine ⟨t, ht, ?_⟩
  rcases exec_transaction_cases hi ht with ⟨z, addr, rfl⟩ | ⟨z, addr, d, rfl⟩
  · rcases hostRead_cases s z addr with ⟨e, -, h⟩ | ⟨v, n, h⟩ <;> rw [h] <;> rfl
  · rcases hostWrite_cases s z addr d with ⟨e, -, h⟩ | h | h | h | ⟨hidle, -⟩ | ⟨hidle, -⟩
    · rw [h]; rfl
    · rw [h, issueCommand_of_busy hb]; rfl
    · rw [h]; rfl
    · rw [h]; rfl
    · simp [hb] at hidle
    · simp [hb] at hidle

/-- Settles O39; the cell n is named by the value 16 n. -/
theorem scratchpadAddressesAreTheCells : Obligations.ScratchpadAddressesAreTheCells := by
  refine ⟨fun x => ⟨spAddr_eq_and x, spAddr_eq_mul x⟩, fun x => ⟨spAddr_mod x, ?_⟩,
    fun n hn => ⟨BitVec.ofNat 128 (16 * n), ?_⟩⟩
  · rw [spAddr_eq_mul]
    omega
  · rw [spAddr_eq_mul, toNat_lane0, BitVec.toNat_ofNat]
    omega

/-- Settles O57: each byte-array row of the map, read byte by byte. -/
theorem windowBytesAreTheRegisters : Obligations.WindowBytesAreTheRegisters := by
  intro s hb reads
  have row (start bytes : Nat) (r : Region) (acc : RegionAccess)
      (hr : ⟨start, bytes, r, .byteArray, acc⟩ ∈ regionRows) {i : Nat} (hi : i < bytes) :
      reads (start + i) (s.regionByte r i) := exec_rd8_of_idle hb hr rfl hi
  refine ⟨fun i hi => ?sp, fun i hi => row 0x200000 200 .state .rw (by decide) hi,
    fun i hi => ⟨row 0x200118 8 .nonce .rw (by decide) hi, row 0x200120 8 .tweak .ro (by decide) hi⟩,
    fun i hi => row 0x200140 32 .key .rw (by decide) hi,
    fun i hi => ⟨row 0x200160 16 .blk .rw (by decide) hi, row 0x200170 16 .rkey .rw (by decide) hi,
      row 0x200180 16 .a .ro (by decide) hi, row 0x200190 16 .b .ro (by decide) hi⟩, fun k i hk hi => ?rk⟩
  case sp =>
    have hbyte := row 0 (2 ^ 21) .sp .rw (by decide) hi
    rwa [State.regionByte, Nat.zero_add] at hbyte
  case rk =>
    have hbyte := row 0x200200 160 .rk .ro (by decide) (i := 16 * k + i) (by omega)
    have hbit : 8 * (16 * k + i) = 128 * k + 8 * i := by omega
    rwa [State.regionByte, byteAt, hbit, ← Nat.add_assoc] at hbyte

/-- Settles O7: the core's turn hands the command in PEND to `exec`. -/
theorem stepCompletesPendingCommand : Obligations.StepCompletesPendingCommand := by
  intro s rest w i hin hb hp hd
  have turn : fetch s = fetchCore { s with inputs := rest } := by
    rcases hin with hin | ⟨hin, rfl⟩
    · simp only [fetch, hin]
    · have hsame : ({ s with inputs := [] } : State) = s := by rw [← hin]
      simp only [fetch, hin, hsame]
  simp only [step, turn, fetchCore, hb, hp, hd, perform, if_true]

/-- Settles O22: a command that does not wait for the Keccak unit ends with `State.complete`. -/
theorem completionSetsDoneAndRaisesIrq : Obligations.CompletionSetsDoneAndRaisesIrq := by
  intro s i hi hk
  obtain ⟨t, ht⟩ := exec_next i s
  refine ⟨t, ht, ?_⟩
  rcases exec_command_cases hi ht with ⟨huses, hwaits, -⟩ | ⟨-, rfl⟩
  · rw [hk huses] at hwaits
    cases hwaits
  · obtain ⟨-, -, -, -, -, -, hieDone, -⟩ := commandBody_untouched s i
    exact ⟨rfl, rfl, rfl, fun hie => by simp [State.irq, hieDone, hie]⟩

end Sys2Proof.Machine
end

section
/-! SUPPORT. The rules of the encodings (spec/30): a word and its four bytes, the decoder of command words as the
inverse of the encoder, the decoder of transactions on encoded ones, and bytes decoded as the input they lay out. -/

namespace Sys2Proof

variable {w s n : Nat}

/-! ### A word and its bytes (spec/00 R8) -/

/-- A word is its four bytes. -/
@[simp] theorem le32_byteAt (x : Word) : le32 (byteAt x 0) (byteAt x 1) (byteAt x 2) (byteAt x 3) = x := by
  have h2 : byteAt x 3 ++ byteAt x 2 = x.extractLsb' 16 16 :=
    BitVec.extractLsb'_append_extractLsb'_eq_extractLsb' rfl
  have h1 : x.extractLsb' 16 16 ++ byteAt x 1 = x.extractLsb' 8 24 :=
    BitVec.extractLsb'_append_extractLsb'_eq_extractLsb' rfl
  have h0 : x.extractLsb' 8 24 ++ byteAt x 0 = x.extractLsb' 0 32 :=
    BitVec.extractLsb'_append_extractLsb'_eq_extractLsb' rfl
  calc le32 (byteAt x 0) (byteAt x 1) (byteAt x 2) (byteAt x 3)
      = byteAt x 3 ++ byteAt x 2 ++ byteAt x 1 ++ byteAt x 0 := rfl
    _ = x.extractLsb' 0 32 := by rw [h2, h1, h0]
    _ = x := BitVec.extractLsb'_eq_self

/-- A byte inside a field that is 0 is 0. -/
theorem byteAt_eq_zero_of_field {x : BitVec w} (h : x.extractLsb' s n = 0) (i : Nat) (hs : s ≤ 8 * i)
    (hn : 8 * i + 8 ≤ s + n) : byteAt x i = 0 := by
  have hinner : byteAt x i = (x.extractLsb' s n).extractLsb' (8 * i - s) 8 := by
    apply BitVec.eq_of_getLsbD_eq
    intro j hj
    have hbit : s + (8 * i - s + j) = 8 * i + j := by omega
    have hin : 8 * i - s + j < n := by omega
    simp only [getLsbD_byteAt, BitVec.getLsbD_extractLsb', hj, hin, hbit, decide_true, Bool.true_and]
  rw [hinner, h]
  exact BitVec.extractLsb'_zero

/-- The OPC field of a word given by its bytes (spec/30 R81). -/
@[simp] theorem opc_le32 (b0 b1 b2 b3 : Byte) : (le32 b0 b1 b2 b3).extractLsb' 0 8 = b0 :=
  BitVec.extractLsb'_append_eq_right

/-- The VAR field of a word given by its bytes (spec/30 R81). -/
@[simp] theorem var_le32 (b0 b1 b2 b3 : Byte) : (le32 b0 b1 b2 b3).extractLsb' 8 8 = b1 :=
  (BitVec.extractLsb'_append_eq_of_le (Nat.le_refl 8)).trans BitVec.extractLsb'_append_eq_right

/-- The RSV field of a word given by its bytes (spec/30 R81). -/
@[simp] theorem rsv_le32 (b0 b1 b2 b3 : Byte) : (le32 b0 b1 b2 b3).extractLsb' 16 16 = b3 ++ b2 :=
  (BitVec.extractLsb'_append_eq_of_le (by decide)).trans BitVec.extractLsb'_append_eq_left

/-- A word whose bits above OPC are 0 is its OPC (spec/30 R81). -/
theorem eq_le32_of_operand_eq_zero {x : Word} (h : x.extractLsb' 8 24 = 0) : x = le32 (x.extractLsb' 0 8) 0 0 0 := by
  have h1 : byteAt x 1 = 0 := byteAt_eq_zero_of_field h 1 (by decide) (by decide)
  have h2 : byteAt x 2 = 0 := byteAt_eq_zero_of_field h 2 (by decide) (by decide)
  have h3 : byteAt x 3 = 0 := byteAt_eq_zero_of_field h 3 (by decide) (by decide)
  calc x = le32 (byteAt x 0) (byteAt x 1) (byteAt x 2) (byteAt x 3) := (le32_byteAt x).symm
    _ = le32 (byteAt x 0) 0 0 0 := by rw [h1, h2, h3]

/-- A word whose RSV is 0 is its OPC and its VAR (spec/30 R81). -/
theorem eq_le32_of_rsv_eq_zero {x : Word} (h : x.extractLsb' 16 16 = 0) :
    x = le32 (x.extractLsb' 0 8) (x.extractLsb' 8 8) 0 0 := by
  have h2 : byteAt x 2 = 0 := byteAt_eq_zero_of_field h 2 (by decide) (by decide)
  have h3 : byteAt x 3 = 0 := byteAt_eq_zero_of_field h 3 (by decide) (by decide)
  calc x = le32 (byteAt x 0) (byteAt x 1) (byteAt x 2) (byteAt x 3) := (le32_byteAt x).symm
    _ = le32 (byteAt x 0) (byteAt x 1) 0 0 := by rw [h2, h3]

/-! ### The low bits of the write data (spec/30 R86) -/

/-- A mask of n ones keeps bits [n-1:0]. -/
theorem and_lowMask (d : Word) (hn : n ≤ 32) :
    d &&& BitVec.ofNat 32 (2 ^ n - 1) = (d.extractLsb' 0 n).setWidth 32 := by
  apply BitVec.eq_of_toNat_eq
  have hpow : 2 ^ n ≤ 2 ^ 32 := Nat.pow_le_pow_right (by decide) hn
  have hpos : 0 < 2 ^ n := Nat.two_pow_pos n
  have hmod : d.toNat % 2 ^ n < 2 ^ 32 := (Nat.mod_lt _ hpos).trans_le hpow
  rw [BitVec.toNat_and, BitVec.toNat_ofNat, Nat.mod_eq_of_lt (a := 2 ^ n - 1) (by omega),
    Nat.and_two_pow_sub_one_eq_mod, BitVec.toNat_setWidth, BitVec.extractLsb'_toNat, Nat.shiftRight_zero,
    Nat.mod_eq_of_lt hmod]

/-- A mask of n ones leaves data of n bits as it is. -/
theorem and_lowMask_of_lt {d : Word} (hn : n ≤ 32) (hd : d.toNat < 2 ^ n) :
    d &&& BitVec.ofNat 32 (2 ^ n - 1) = d := by
  apply BitVec.eq_of_toNat_eq
  rw [and_lowMask d hn, BitVec.toNat_setWidth, BitVec.extractLsb'_toNat, Nat.shiftRight_zero, Nat.mod_eq_of_lt hd,
    Nat.mod_eq_of_lt d.isLt]

/-! ### Command words: the decoder and the encoder are inverse to each other (spec/30 R83, R84) -/

/-- A word of OPC and VAR alone, as the encoder puts it together (spec/30 R81). -/
theorem setWidth_or_var_eq_le32 (opc v : Byte) : opc.setWidth 32 ||| (v.setWidth 32 <<< 8) = le32 opc v 0 0 := by
  have h : (0#8 ++ 0#8 ++ v ++ opc).setWidth 32 = v.setWidth 32 <<< 8 ||| opc.setWidth 32 := by
    rw [BitVec.setWidth_append_append_append_eq_shiftLeft_setWidth_or]
    simp
  rw [BitVec.or_comm, ← h]
  exact BitVec.setWidth_eq _

theorem encode_mixInit (v : Byte) : encode (.mixInit v) = .command (le32 0x20 v 0 0) :=
  congrArg Code.command (setWidth_or_var_eq_le32 0x20 v)

theorem encode_hash (v : Byte) : encode (.hash v) = .command (le32 0x80 v 0 0) :=
  congrArg Code.command (setWidth_or_var_eq_le32 0x80 v)

theorem decodeCommand_mixInit (v : Byte) : decodeCommand (le32 0x20 v 0 0) = .ok (.mixInit v) := by
  simp [decodeCommand]

theorem decodeCommand_hash (v : Byte) : decodeCommand (le32 0x80 v 0 0) = .ok (.hash v) := by
  simp [decodeCommand]

/-- A word that decodes is the encoding of what it decodes to. -/
theorem encode_of_decodeCommand {x : Word} {i : Instr} (h : decodeCommand x = .ok i) : encode i = .command x := by
  unfold decodeCommand at h
  dsimp only at h
  split at h
  · next hvariant =>
    split at h
    · cases h
    · next hrsv =>
      have hx := eq_le32_of_rsv_eq_zero (not_not.mp hrsv)
      split at h
      · next hopc =>
        cases h
        rw [encode_mixInit, ← hopc, ← hx]
      · next hopc =>
        cases h
        rw [encode_hash, ← hvariant.resolve_left hopc, ← hx]
  · split at h
    · cases h
    · next hoperand =>
      have hx := eq_le32_of_operand_eq_zero (not_not.mp hoperand)
      rw [hx]
      -- each remaining opcode names one word without operands
      split_ifs at h with hopc hopc hopc hopc hopc hopc hopc hopc hopc <;> cases h <;> rw [hopc] <;> rfl

/-- A command word decodes to exactly the instruction it encodes. -/
theorem decodeCommand_eq_ok_iff {x : Word} {i : Instr} : decodeCommand x = .ok i ↔ encode i = .command x := by
  refine ⟨encode_of_decodeCommand, fun h => ?_⟩
  cases i with
  | mixInit v =>
    cases (encode_mixInit v).symm.trans h
    exact decodeCommand_mixInit v
  | hash v =>
    cases (encode_hash v).symm.trans h
    exact decodeCommand_hash v
  | nop | keyexp | enc10 | enc1 | spInit | mixStep | mixRun | compress | kperm =>
    cases h
    rfl
  | rd8 | rd16 | rd32 | wr8 | wr16 | wr32 => cases h

/-! ### Transactions (spec/30 R86) -/

/-- A transaction decodes to the well-formed instruction it encodes. -/
theorem decodeTxn_of_encode {t : Txn} {i : Instr} (hwf : i.wellFormed = true) (h : encode i = .bus t) :
    decodeTxn t = .ok i := by
  cases i with
  | wr8 addr data =>
    cases h
    exact congrArg (fun d => Except.ok (Instr.wr8 addr d)) (and_lowMask_of_lt (by decide) (of_decide_eq_true hwf))
  | wr16 addr data =>
    cases h
    exact congrArg (fun d => Except.ok (Instr.wr16 addr d)) (and_lowMask_of_lt (by decide) (of_decide_eq_true hwf))
  | rd8 | rd16 | rd32 | wr32 =>
    cases h
    rfl
  | nop | keyexp | enc10 | enc1 | spInit | mixInit | mixStep | mixRun | compress | kperm | hash => cases h

/-- A well-formed instruction decodes from its encoding. -/
theorem decode_encode {i : Instr} (hwf : i.wellFormed = true) : decode (encode i) = .ok i := by
  cases h : encode i with
  | command x => exact decodeCommand_eq_ok_iff.mpr h
  | bus t => exact decodeTxn_of_encode hwf h

/-! ### Inputs as bytes (spec/30 R80, log 1) -/

/-- The bits above a widened value are 0. -/
theorem extractLsb'_setWidth_above (x : BitVec w) (v : Nat) : (x.setWidth v).extractLsb' w n = 0 := by
  apply BitVec.eq_of_getLsbD_eq
  intro j _
  simp

/-- The low bits of a widened value are the value. -/
theorem extractLsb'_setWidth_low (x : BitVec w) {v : Nat} (hv : w ≤ v) : (x.setWidth v).extractLsb' 0 w = x :=
  (BitVec.extractLsb'_setWidth_of_le (by omega)).trans BitVec.extractLsb'_eq_self

/-- The record read from a transaction's bytes is the transaction. -/
theorem ofRecord_setWidth (t : Txn) : Txn.ofRecord (t.tc.setWidth 8) (t.addr.setWidth 32) t.wdata = some t := by
  rw [Txn.ofRecord, extractLsb'_setWidth_above, extractLsb'_setWidth_above,
    extractLsb'_setWidth_low _ (by decide), extractLsb'_setWidth_low _ (by decide)]
  rfl

/-- The three bytes of a record's address are the address. -/
theorem le32_byteAt_addr (addr : WinAddr) :
    le32 (byteAt (addr.setWidth 32) 0) (byteAt (addr.setWidth 32) 1) (byteAt (addr.setWidth 32) 2) 0 =
      addr.setWidth 32 := by
  have htop : byteAt (addr.setWidth 32) 3 = 0 :=
    byteAt_eq_zero_of_field (extractLsb'_setWidth_above (n := 10) addr 32) 3 (by decide) (by decide)
  rw [← htop, le32_byteAt]

/-- The bytes of an input decode to what the input decodes to. -/
theorem decodeBytes_bytes (c : Code) : decodeBytes c.bytes = decode c := by
  cases c with
  | command x => exact congrArg decodeCommand (le32_byteAt x)
  | bus t =>
    simp only [Code.bytes, Txn.bytes, bytes4, List.take, List.cons_append, List.nil_append, decodeBytes, le32_byteAt,
      le32_byteAt_addr, ofRecord_setWidth, decode]

/-! ### The opcode map (spec/30 R83) -/

/-- The row an instruction's encoding selects is its own. -/
theorem codeSelects_encode (i : Instr) : Laws.codeSelects i.mnemonic (encode i) := by
  cases i with
  | nop => exact Laws.EncodeRow.nop
  | keyexp => exact Laws.EncodeRow.keyexp
  | enc10 => exact Laws.EncodeRow.enc10
  | enc1 => exact Laws.EncodeRow.enc1
  | spInit => exact Laws.EncodeRow.spInit
  | mixInit v => exact Laws.EncodeRow.mixInit v
  | mixStep => exact Laws.EncodeRow.mixStep
  | mixRun => exact Laws.EncodeRow.mixRun
  | compress => exact Laws.EncodeRow.compress
  | kperm => exact Laws.EncodeRow.kperm
  | hash v => exact Laws.EncodeRow.hash v
  | rd8 addr => exact Laws.EncodeRow.rd8 addr
  | rd16 addr => exact Laws.EncodeRow.rd16 addr
  | rd32 addr => exact Laws.EncodeRow.rd32 addr
  | wr8 addr data => exact Laws.EncodeRow.wr8 addr data
  | wr16 addr data => exact Laws.EncodeRow.wr16 addr data
  | wr32 addr data => exact Laws.EncodeRow.wr32 addr data

/-- A row whose mask has every bit is selected by its own value alone. -/
theorem OpcodeRow.eq_of_selects_fullMask {m : String} {k : Nat} {x : Word}
    (h : OpcodeRow.selects ⟨m, k, 0xFFFFFFFF⟩ x = true) : x = BitVec.ofNat 32 k := by
  have hsel : x &&& BitVec.allOnes 32 = BitVec.ofNat 32 k := eq_of_beq h
  rwa [BitVec.and_allOnes] at hsel

/-- A row whose mask leaves VAR out is selected by its OPC with any VAR. -/
theorem OpcodeRow.eq_of_selects_varMask {m : String} {k : Nat} {opc : Byte} {x : Word}
    (hk : BitVec.ofNat 32 k = le32 opc 0 0 0) (h : OpcodeRow.selects ⟨m, k, 0xFFFF00FF⟩ x = true) :
    x = le32 opc (x.extractLsb' 8 8) 0 0 := by
  have hsel : x &&& 0xFFFF00FF = le32 opc 0 0 0 := (eq_of_beq h).trans hk
  have hopc : x.extractLsb' 0 8 = opc := calc
    x.extractLsb' 0 8 = x.extractLsb' 0 8 &&& (0xFFFF00FF : Word).extractLsb' 0 8 := BitVec.and_allOnes.symm
    _ = (x &&& 0xFFFF00FF).extractLsb' 0 8 := BitVec.extractLsb'_and.symm
    _ = opc := by rw [hsel, opc_le32]
  have hrsv : x.extractLsb' 16 16 = 0 := calc
    x.extractLsb' 16 16 = x.extractLsb' 16 16 &&& (0xFFFF00FF : Word).extractLsb' 16 16 := BitVec.and_allOnes.symm
    _ = (x &&& 0xFFFF00FF).extractLsb' 16 16 := BitVec.extractLsb'_and.symm
    _ = 0 := by rw [hsel, rsv_le32]; rfl
  calc x = le32 (x.extractLsb' 0 8) (x.extractLsb' 8 8) 0 0 := eq_le32_of_rsv_eq_zero hrsv
    _ = le32 opc (x.extractLsb' 8 8) 0 0 := by rw [hopc]

/-- A word that selects a row is the encoding of an instruction of that row. -/
theorem exists_encode_of_selects {x : Word} :
    ∀ r ∈ commandRows, r.selects x = true → ∃ i, encode i = .command x ∧ i.mnemonic = r.mnemonic := by
  have fixed {k : Nat} (i : Instr) (hi : encode i = .command (BitVec.ofNat 32 k))
      (h : OpcodeRow.selects ⟨i.mnemonic, k, 0xFFFFFFFF⟩ x = true) :
      ∃ j, encode j = .command x ∧ j.mnemonic = i.mnemonic :=
    ⟨i, by rw [hi, ← OpcodeRow.eq_of_selects_fullMask h], rfl⟩
  simp only [commandRows, List.forall_mem_cons]
  refine ⟨fixed .nop rfl, fixed .keyexp rfl, fixed .enc10 rfl, fixed .enc1 rfl, fixed .spInit rfl, fun h => ?mixInit,
    fixed .mixStep rfl, fixed .mixRun rfl, fixed .compress rfl, fixed .kperm rfl, fun h => ?hash, nofun⟩
  case mixInit =>
    have hx := OpcodeRow.eq_of_selects_varMask (opc := 0x20) rfl h
    exact ⟨.mixInit (x.extractLsb' 8 8), by rw [encode_mixInit, ← hx], rfl⟩
  case hash =>
    have hx := OpcodeRow.eq_of_selects_varMask (opc := 0x80) rfl h
    exact ⟨.hash (x.extractLsb' 8 8), by rw [encode_hash, ← hx], rfl⟩

end Sys2Proof
end

section
/-! The statements of the family of spec/30, the encodings. -/

namespace Sys2Proof

/-- Settles O1: the bytes of an input decode to what it decodes to, and the decoder undoes the encoder. -/
theorem decodeEncodeRoundTrip : Obligations.DecodeEncodeRoundTrip :=
  fun i hwf => ⟨decode_encode hwf, (decodeBytes_bytes (encode i)).trans (decode_encode hwf)⟩

/-- Settles O2: a word decodes to what it encodes, and each encoding is one of its row. -/
theorem commandDecodesByOpcodeMap : Obligations.CommandDecodesByOpcodeMap := by
  intro x
  refine ⟨fun i h => ?row, fun r hr hsel => ?decodes, fun v h => ?var⟩
  case row =>
    have hrow := codeSelects_encode i
    rwa [encode_of_decodeCommand h] at hrow
  case decodes =>
    obtain ⟨i, hi, hm⟩ := exists_encode_of_selects r hr hsel
    exact ⟨i, decodeCommand_eq_ok_iff.mpr hi, hm⟩
  case var =>
    have word (opc : Byte) (h : Code.command (le32 opc v 0 0) = .command x) : v = x.extractLsb' 8 8 := by
      cases h
      exact (var_le32 opc v 0 0).symm
    rcases h with h | h
    · exact word 0x20 ((encode_mixInit v).symm.trans (encode_of_decodeCommand h))
    · exact word 0x80 ((encode_hash v).symm.trans (encode_of_decodeCommand h))

/-- Settles O3: the decoder is undone by the encoder. -/
theorem decodedCommandEncodesToItsWord : Obligations.DecodedCommandEncodesToItsWord :=
  fun _ _ => encode_of_decodeCommand

/-- Settles O4: the masks of the narrow writes keep the low 8 and 16 bits. -/
theorem transactionCodesSelectTransactions : Obligations.TransactionCodesSelectTransactions := by
  intro addr d
  have h8 : d &&& 0xFF = (d.extractLsb' 0 8).setWidth 32 := and_lowMask (n := 8) d (by decide)
  have h16 : d &&& 0xFFFF = (d.extractLsb' 0 16).setWidth 32 := and_lowMask (n := 16) d (by decide)
  rw [← h8, ← h16]
  exact ⟨rfl, rfl, rfl, rfl, rfl, rfl, rfl, rfl⟩

/-- Settles O5: the first three words and the record are encodings, and the fourth selects no row. -/
theorem writtenOutWordsDecode : Obligations.WrittenOutWordsDecode := by
  unfold Obligations.WrittenOutWordsDecode
  exact ⟨(decodeEncodeRoundTrip .keyexp rfl).2, (decodeEncodeRoundTrip (.mixInit 255) rfl).2,
    (decodeEncodeRoundTrip (.hash 2) rfl).2, rfl, (decodeEncodeRoundTrip (.wr32 0x200100 0x22) rfl).2⟩

end Sys2Proof
end

section
/-! SUPPORT. The rules of the AES engine (spec/40): bytes of words, the key expansion word by word, a round byte by
byte, and the S-box as an affine map after the inverse in GF(2^8). -/

namespace Sys2Proof.Machine

open Sys2Proof.Claims

/-! ### The bytes of a word (spec/00 R8) -/

theorem byteAt_le32_two (b0 b1 b2 b3 : Byte) : byteAt (le32 b0 b1 b2 b3) 2 = b2 := calc
  byteAt (le32 b0 b1 b2 b3) 2 = (b3 ++ b2 ++ b1).extractLsb' 8 8 := BitVec.extractLsb'_append_eq_of_le (by decide)
  _ = (b3 ++ b2).extractLsb' 0 8 := BitVec.extractLsb'_append_eq_of_le (by decide)
  _ = b2 := BitVec.extractLsb'_append_eq_right

theorem byteAt_le32_three (b0 b1 b2 b3 : Byte) : byteAt (le32 b0 b1 b2 b3) 3 = b3 := calc
  byteAt (le32 b0 b1 b2 b3) 3 = (b3 ++ b2 ++ b1).extractLsb' 16 8 := BitVec.extractLsb'_append_eq_of_le (by decide)
  _ = (b3 ++ b2).extractLsb' 8 8 := BitVec.extractLsb'_append_eq_of_le (by decide)
  _ = b3 := BitVec.extractLsb'_append_eq_left

/-- The bytes of a word are the ones it was made of. -/
theorem byteAt_le32 (f : Nat → Byte) {j : Nat} (hj : j < 4) : byteAt (le32 (f 0) (f 1) (f 2) (f 3)) j = f j := by
  interval_cases j
  · exact opc_le32 ..
  · exact var_le32 ..
  · exact byteAt_le32_two ..
  · exact byteAt_le32_three ..

/-- A byte widened to a word is the word's byte 0, and the others are 0. -/
theorem byteAt_setWidth (b : Byte) {j : Nat} (hj : j < 4) : byteAt (b.setWidth 32) j = if j = 0 then b else 0 := by
  split
  case isTrue h => exact h ▸ extractLsb'_setWidth_low b (by decide)
  case isFalse h =>
    exact byteAt_eq_zero_of_field (extractLsb'_setWidth_above (n := 24) b 32) j (by omega) (by omega)

/-! ### The key expansion (spec/40 R119, R120) -/

theorem byteAt_rotWord (t : Word) {j : Nat} (hj : j < 4) : byteAt (rotWord t) j = byteAt t ((j + 1) % 4) :=
  byteAt_le32 (fun i => byteAt t ((i + 1) % 4)) hj

theorem byteAt_subWord (t : Word) {j : Nat} (hj : j < 4) : byteAt (subWord t) j = sbox (byteAt t j) :=
  byteAt_le32 (fun i => sbox (byteAt t i)) hj

/-- The round constants in use are powers of 2. -/
theorem rcon_eq_two_pow {k : Nat} (h1 : 1 ≤ k) (h4 : k ≤ 4) : rcon k = BitVec.ofNat 8 (2 ^ (k - 1)) := by
  interval_cases k <;> rfl

/-- What word i of the expansion XORs in, byte by byte. -/
theorem byteAt_keyMix (t : Word) {i j : Nat} (h8 : 8 ≤ i) (h40 : i < 40) (hj : j < 4) :
    byteAt (keyMix i t) j =
      if i % 8 = 0 then sbox (byteAt t ((j + 1) % 4)) ^^^ (if j = 0 then BitVec.ofNat 8 (2 ^ (i / 8 - 1)) else 0)
      else if i % 8 = 4 then sbox (byteAt t j)
      else byteAt t j := by
  have hrcon : rcon (i / 8) = BitVec.ofNat 8 (2 ^ (i / 8 - 1)) := rcon_eq_two_pow (by omega) (by omega)
  rw [keyMix, apply_ite (byteAt · j), apply_ite (byteAt · j), byteAt_xor, byteAt_subWord _ hj, byteAt_rotWord _ hj,
    byteAt_setWidth _ hj, hrcon, byteAt_subWord t hj]

section
variable (k : BitVec 256)

theorem length_keyWords (n : Nat) : (keyWords k n).length = 8 + n := by
  induction n with
  | zero => rfl
  | succ n ih => rw [keyWords, List.length_cons, ih, Nat.add_assoc]

/-- Longer expansions keep the words of shorter ones, further from the front. -/
theorem getD_keyWords_add (n p d : Nat) : (keyWords k (n + p)).getD (p + d) 0 = (keyWords k n).getD d 0 := by
  induction p with
  | zero => rw [Nat.zero_add, Nat.add_zero]
  | succ p ih => rw [← Nat.add_assoc, keyWords, Nat.add_right_comm, List.getD_cons_succ, ih]

/-- Word 7 + n - d of RK stands d places from the front in the list of the first 8 + n words. -/
theorem wordAt_expandKey {n d : Nat} (hn : n ≤ 32) (hd : d ≤ 7 + n) :
    wordAt (expandKey k) (7 + n - d) = (keyWords k n).getD d 0 := by
  obtain ⟨p, hp⟩ := Nat.exists_eq_add_of_le hn
  have hlen := length_keyWords k 32
  have hidx : (keyWords k 32).length - 1 - (7 + n - d) = p + d := by omega
  calc wordAt (expandKey k) (7 + n - d)
      = (keyWords k 32).reverse.getD (7 + n - d) 0 := extractLsb'_pack _ 40 _ (by decide) (by decide) (by omega)
    _ = (keyWords k 32).getD (p + d) 0 := by rw [List.getD_reverse _ (by omega), hidx]
    _ = (keyWords k n).getD d 0 := by rw [← getD_keyWords_add k n p d, ← hp]

/-- The first eight words are the key. -/
theorem wordAt_expandKey_of_lt {i : Nat} (hi : i < 8) : wordAt (expandKey k) i = wordAt k i := by
  have hfront := wordAt_expandKey k (n := 0) (d := 7 - i) (by decide) (by omega)
  interval_cases i <;> exact hfront

/-- Each later word comes from the one before it and the one eight before it. -/
theorem wordAt_expandKey_add_eight {n : Nat} (hn : n < 32) :
    wordAt (expandKey k) (8 + n) =
      wordAt (expandKey k) n ^^^ keyMix (8 + n) (wordAt (expandKey k) (7 + n)) := by
  have hnew : wordAt (expandKey k) (8 + n) = (keyWords k (n + 1)).getD 0 0 := by
    rw [← wordAt_expandKey k hn (Nat.zero_le _)]
    congr 1
    omega
  have hlast : wordAt (expandKey k) (7 + n) = (keyWords k n).getD 0 0 := wordAt_expandKey k hn.le (Nat.zero_le _)
  have hback : wordAt (expandKey k) n = (keyWords k n).getD 7 0 := by
    rw [← wordAt_expandKey k hn.le (Nat.le_add_right _ _), Nat.add_sub_cancel_left]
  rw [hnew, hlast, hback]
  rfl

end

/-! ### One round (spec/40 R110 to R116) -/

theorem byteAt_subBytes (x : Block) {i : Nat} (hi : i < 16) : byteAt (subBytes x) i = sbox (byteAt x i) :=
  byteAt_pack _ 16 i (by decide) hi

theorem byteAt_shiftRows (x : Block) {i : Nat} (hi : i < 16) :
    byteAt (shiftRows x) i = byteAt x (shiftRowsFrom i) :=
  byteAt_pack _ 16 i (by decide) hi

/-- Byte r of column c after SubBytes and ShiftRows. -/
theorem byteAt_shiftRows_subBytes (x : Block) {r c : Nat} (hr : r < 4) (hc : c < 4) :
    byteAt (shiftRows (subBytes x)) (4 * c + r) = shifted x c r := by
  have hcol : (4 * c + r) / 4 = c := by omega
  have hrow : (4 * c + r) % 4 = r := by omega
  rw [byteAt_shiftRows _ (by omega), shiftRowsFrom, byteAt_subBytes _ (by omega), hcol, hrow, shifted,
    Nat.mod_eq_of_lt hr]

/-- The rows of a column are counted modulo 4. -/
theorem shifted_add_four (x : Block) (c k : Nat) : shifted x c (k + 4) = shifted x c k := by
  rw [shifted, Nat.add_mod_right, shifted]

/-- Row r of MixColumns is row 0 turned by r places: its matrix is circulant. -/
theorem mixRow_eq_of_periodic (f : Nat → Byte) (hf : ∀ k, f (k + 4) = f k) {r : Nat} (hr : r < 4) :
    mixRow r (f 0) (f 1) (f 2) (f 3) = mul2 (f r) ^^^ mul3 (f (r + 1)) ^^^ f (r + 2) ^^^ f (r + 3) := by
  have h4 : f 4 = f 0 := hf 0
  have h5 : f 5 = f 1 := hf 1
  have h6 : f 6 = f 2 := hf 2
  interval_cases r <;> simp only [mixRow, Nat.reduceAdd, h4, h5, h6] <;> ac_rfl

/-- Row r of column c after MixColumns. -/
theorem byteAt_mixColumns (x : Block) {r c : Nat} (hr : r < 4) (hc : c < 4) :
    byteAt (mixColumns x) (r + 4 * c) =
      mixRow r (byteAt x (4 * c + 0)) (byteAt x (4 * c + 1)) (byteAt x (4 * c + 2)) (byteAt x (4 * c + 3)) := by
  have hcol : (r + 4 * c) / 4 = c := by omega
  have hrow : (r + 4 * c) % 4 = r := by omega
  rw [mixColumns, byteAt_pack _ 16 _ (by decide) (by omega), hcol, hrow]
  rfl

theorem gfMul_two (a : Byte) : gfMul a 2 = mul2 a := by
  simp [gfMul, gfMulBits, mul2]

theorem gfMul_three (a : Byte) : gfMul a 3 = mul3 a := by
  simp [gfMul, gfMulBits, mul3, BitVec.xor_comm]

/-- Byte r of column c after one round. -/
theorem byteAt_aesRound (x k : Block) {r c : Nat} (hr : r < 4) (hc : c < 4) :
    byteAt (aesRound x k) (r + 4 * c) =
      gfMul (shifted x c r) 2 ^^^ gfMul (shifted x c (r + 1)) 3 ^^^ shifted x c (r + 2) ^^^ shifted x c (r + 3) ^^^
        byteAt k (r + 4 * c) := by
  have column (q : Nat) (hq : q < 4) := byteAt_shiftRows_subBytes x hq hc
  calc byteAt (aesRound x k) (r + 4 * c)
      = byteAt (mixColumns (shiftRows (subBytes x))) (r + 4 * c) ^^^ byteAt k (r + 4 * c) := byteAt_xor ..
    _ = mixRow r (shifted x c 0) (shifted x c 1) (shifted x c 2) (shifted x c 3) ^^^ byteAt k (r + 4 * c) := by
      rw [byteAt_mixColumns _ hr hc, column 0 (by decide), column 1 (by decide), column 2 (by decide),
        column 3 (by decide)]
    _ = _ := by rw [mixRow_eq_of_periodic _ (shifted_add_four x c) hr, gfMul_two, gfMul_three]

/-! ### The S-box (spec/40 R111) -/

/-- The affine map of the S-box. -/
def sboxAffine (x : Byte) : Byte :=
  x ^^^ x.rotateLeft 1 ^^^ x.rotateLeft 2 ^^^ x.rotateLeft 3 ^^^ x.rotateLeft 4 ^^^ 0x63

/-- The affine map that undoes `sboxAffine`. -/
def sboxUnaffine (y : Byte) : Byte := y.rotateLeft 1 ^^^ y.rotateLeft 3 ^^^ y.rotateLeft 6 ^^^ 0x05

theorem sboxAffine_sboxUnaffine : ∀ y : Byte, sboxAffine (sboxUnaffine y) = y := by decide +kernel

theorem sboxUnaffine_sbox_zero : sboxUnaffine (sbox 0) = 0 := by decide +kernel

/-- With the affine map undone, the table holds the inverses in GF(2^8). -/
theorem gfMul_sboxUnaffine_sbox : ∀ b : Byte, b ≠ 0 → gfMul b (sboxUnaffine (sbox b)) = 1 := by decide +kernel

end Sys2Proof.Machine
end

section
/-! The statements of the family of spec/40, the AES engine. -/

namespace Sys2Proof.Machine

open Sys2Proof.Claims

/-- Settles O34: RK is read word by word, and each word byte by byte. -/
theorem keyexpExpandsKey : Obligations.KeyexpExpandsKey := by
  refine fun s => ⟨expandKey s.key, rfl, fun i hi => wordAt_expandKey_of_lt s.key hi, fun i j h8 h40 hj => ?_⟩
  obtain ⟨n, rfl⟩ := Nat.exists_eq_add_of_le h8
  have hlast : 8 + n - 1 = 7 + n := by omega
  rw [Nat.add_sub_cancel_left, hlast, ← byteAt_keyMix _ h8 h40 hj, ← byteAt_xor,
    wordAt_expandKey_add_eight s.key (by omega)]

/-- Settles O35: the round is read byte by byte. -/
theorem enc1IsOneAesRound : Obligations.Enc1IsOneAesRound :=
  fun s => ⟨aesRound s.blk s.rkey, rfl, fun _ _ => byteAt_aesRound s.blk s.rkey⟩

/-- Settles O36: the chain of blocks is `encryptFirst`, one round longer at each step. -/
theorem enc10IsTenRoundsUnderRk : Obligations.Enc10IsTenRoundsUnderRk := by
  refine fun s => ⟨encryptFirst s.rk s.blk, rfl, fun r _ t hblk hkey => ?_, rfl⟩
  have hround : encryptFirst s.rk s.blk (r + 1) = aesRound t.blk t.rkey := by
    rw [encryptFirst, hblk, hkey, roundKey, blockFrom, ← Nat.mul_assoc]
  rw [hround]
  rfl

/-- Settles O33: the inverse of b is what undoing the affine map makes of its entry in the table. -/
theorem sboxIsInverseThenAffineMap : Obligations.SboxIsInverseThenAffineMap :=
  fun b => ⟨sboxUnaffine (sbox b), fun h => by rw [h, sboxUnaffine_sbox_zero], gfMul_sboxUnaffine_sbox b,
    (sboxAffine_sboxUnaffine (sbox b)).symm⟩

end Sys2Proof.Machine
end

section
/-! SUPPORT. The rules of the scratchpad initializer (spec/41): SP as its chunk cells, the cells after SP_INIT, and the
slices of STATE that it reads. -/

namespace Sys2Proof.Machine

open Sys2Proof.Claims

/-! ### SP as its chunk cells (spec/20 R57) -/

/-- Every byte of SP lies in a cell of a chunk. -/
theorem Memory.read_eq_byteAt_chunkCell (m : Memory) (a : Nat) :
    Memory.read m a = byteAt (chunkCell m (a / 128) (a / 16 % 8)) (a % 16) := by
  have haddr : 128 * (a / 128) + 16 * (a / 16 % 8) + a % 16 = a := by omega
  rw [chunkCell, Memory.byteAt_readCell _ _ _ (Nat.mod_lt a (by decide)), haddr]

/-- Canonical memories with the same cells in all 2^14 chunks are equal. -/
theorem Memory.ext_of_chunkCell {m m' : Memory} (h : Memory.wf m = true) (h' : Memory.wf m' = true)
    (hcell : ∀ n j, n < 2 ^ 14 → j < 8 → chunkCell m n j = chunkCell m' n j) : m = m' := by
  refine Memory.ext h h' fun a => ?_
  rcases Nat.lt_or_ge a spSize with ha | ha
  · rw [spSize_eq] at ha
    rw [Memory.read_eq_byteAt_chunkCell, Memory.read_eq_byteAt_chunkCell m', hcell _ _ (by omega) (by omega)]
  · rw [Memory.read_outside h ha, Memory.read_outside h' ha]

/-! ### The slices of an array (spec/00 R7) -/

/-- A byte of a slice of n bytes is a byte of the array. -/
theorem byteAt_extractLsb' {w : Nat} (x : BitVec w) (off : Nat) {n i : Nat} (hi : i < n) :
    byteAt (x.extractLsb' (8 * off) (8 * n)) i = byteAt x (off + i) := by
  apply BitVec.eq_of_getLsbD_eq
  intro j _
  have hin : 8 * i + j < 8 * n := by omega
  have hpos : 8 * off + (8 * i + j) = 8 * (off + i) + j := by omega
  simp only [getLsbD_byteAt, BitVec.getLsbD_extractLsb', hin, hpos, decide_true, Bool.true_and]

/-- Slices of n bytes are equal where their bytes are. -/
theorem extractLsb'_congr_of_byteAt {w : Nat} {x y : BitVec w} (off n : Nat)
    (h : ∀ i, i < n → byteAt x (off + i) = byteAt y (off + i)) :
    x.extractLsb' (8 * off) (8 * n) = y.extractLsb' (8 * off) (8 * n) :=
  eq_of_byteAt n rfl fun i hi => by rw [byteAt_extractLsb' x off hi, byteAt_extractLsb' y off hi, h i hi]

/-! ### What SP_INIT leaves (spec/41 R140, R141) -/

theorem exec_spInit (s : State) : exec .spInit s = .next (spInitBody s).complete := rfl

theorem exec_keyexp (s : State) : exec .keyexp s = .next (completed { s with rk := expandKey s.key }) := rfl

theorem complete_eq_completed (s : State) : s.complete = completed s := rfl

/-- Sub-block j of chunk n is sub-block j of the seed, encrypted n + 1 times. -/
theorem chunkCell_spInitBody {s : State} (h : Memory.wf s.sp = true) {n j : Nat} (hn : n < 2 ^ 14) (hj : j < 8) :
    chunkCell (spInitBody s).sp n j =
      Nat.iterate (fun x => encryptRounds x (spInitBody s).rk) (n + 1) (blockFrom s.state (64 + 16 * j)) := by
  have hfits : 128 * (0 + chunkCount) ≤ spSize := by rw [chunkCount_eq, spSize_eq]
  have hcell := cell_spInitLoop (expandKey (s.state.extractLsb' 0 256)) chunkCount 0 (seedBlocks s.state) h
    (length_seedBlocks _) hfits n j (by rw [chunkCount_eq]; exact hn) hj
  rwa [Nat.zero_add, getD_seedBlocks _ _ hj, ← spInitBody_sp, ← spInitBody_rk] at hcell

/-- The keys come from STATE[0:32) alone (spec/41 R142). -/
theorem spInitBody_rk_congr {s₁ s₂ : State} (h : ∀ i, i < 32 → byteAt s₁.state i = byteAt s₂.state i) :
    (spInitBody s₁).rk = (spInitBody s₂).rk := by
  have hkey : s₁.state.extractLsb' 0 256 = s₂.state.extractLsb' 0 256 :=
    extractLsb'_congr_of_byteAt 0 32 fun i hi => by rw [Nat.zero_add, h i hi]
  rw [spInitBody_rk, spInitBody_rk, hkey]

/-- The scratchpad comes from the keys and the seed STATE[64:192) alone: it is written whole (spec/41 R142). -/
theorem spInitBody_sp_congr {s₁ s₂ : State} (h₁ : Memory.wf s₁.sp = true) (h₂ : Memory.wf s₂.sp = true)
    (hrk : (spInitBody s₁).rk = (spInitBody s₂).rk)
    (hseed : ∀ i, 64 ≤ i → i < 192 → byteAt s₁.state i = byteAt s₂.state i) :
    (spInitBody s₁).sp = (spInitBody s₂).sp := by
  refine Memory.ext_of_chunkCell (wf_spInitBody h₁) (wf_spInitBody h₂) fun n j hn hj => ?_
  have hblock : blockFrom s₁.state (64 + 16 * j) = blockFrom s₂.state (64 + 16 * j) :=
    extractLsb'_congr_of_byteAt _ 16 fun i hi => hseed _ (by omega) (by omega)
  rw [chunkCell_spInitBody h₁ hn hj, chunkCell_spInitBody h₂ hn hj, hrk, hblock]

end Sys2Proof.Machine
end

section
/-! The statements of the family of spec/41, the scratchpad initializer. -/

namespace Sys2Proof.Machine

open Sys2Proof.Claims

/-- Settles O37: SP cell by cell, and RK as KEYEXP of the same key makes it. -/
theorem spInitFillsEveryChunk : Obligations.SpInitFillsEveryChunk := by
  intro s hwf
  refine ⟨(spInitBody s).complete, exec_spInit s, ?frame, ?keys, fun n j hn hj => ?cells⟩
  case frame =>
    rw [complete_eq_completed]
    exact congrArg completed (spInitBody_frame s)
  case keys => rw [exec_keyexp, State.complete_rk, spInitBody_rk]
  case cells =>
    rw [State.complete_sp, State.complete_rk]
    exact chunkCell_spInitBody hwf hn hj

/-- Settles O38: the keys agree, and with them and the seed every cell of SP. -/
theorem spInitDependsOnlyOnState : Obligations.SpInitDependsOnlyOnState := by
  intro s₁ s₂ h₁ h₂ hstate
  have hrk := spInitBody_rk_congr fun i hi => hstate i (.inl hi)
  have hsp := spInitBody_sp_congr h₁ h₂ hrk fun i hlo hhi => hstate i (.inr ⟨hlo, hhi⟩)
  exact ⟨_, _, exec_spInit s₁, exec_spInit s₂, hsp, hrk⟩

end Sys2Proof.Machine
end

section
/-! SUPPORT. The rules of the mixer (spec/42): lanes, products and sums as numbers, what MIX_INIT loads, an iteration as
two cell writes, the loop of MIX_RUN as iterations, and what a variant other than 1 changes. -/

namespace Sys2Proof.Machine

open Sys2Proof.Claims

theorem exec_mixInit (v : BitVec 8) (s : State) : exec (.mixInit v) s = .next (mixInitBody v s).complete := rfl

theorem exec_mixStep (s : State) : exec .mixStep s = .next (mixStepBody s).complete := rfl

theorem exec_mixRun (s : State) : exec .mixRun s = .next (mixRunBody s).complete := rfl

theorem exec_hash_of_answers (v : BitVec 8) {s : State} (h : s.keccakAnswers = true) :
    exec (.hash v) s = .next (hashBody v s).complete := by
  rw [hashBody, hashStages]
  exact execHash_answers v h

/-! ### Lanes (spec/00 R8, spec/42 R153, R154) -/

theorem lane0_mulLanes (c d : Block) :
    (lane0 (mulLanes c d)).toNat = (lane0 c).toNat * (lane0 d).toNat / 2 ^ 64 := by
  have hp : (lane0 c).toNat * (lane0 d).toNat < 2 ^ 64 * 2 ^ 64 := Nat.mul_lt_mul'' (lane0 c).isLt (lane0 d).isLt
  rw [mulLanes, lane0_cell, BitVec.toNat_ofNat, Nat.mod_eq_of_lt (Nat.div_lt_of_lt_mul hp)]

theorem lane1_mulLanes (c d : Block) :
    (lane1 (mulLanes c d)).toNat = (lane0 c).toNat * (lane0 d).toNat % 2 ^ 64 := by
  rw [mulLanes, lane1_cell, BitVec.toNat_ofNat]

theorem lane0_laneAdd (x y : Block) : lane0 (laneAdd x y) = lane0 x + lane0 y := lane0_cell ..

theorem lane1_laneAdd (x y : Block) : lane1 (laneAdd x y) = lane1 x + lane1 y := lane1_cell ..

/-- The bytes of a value are those of its lane 0, then those of its lane 1. -/
theorem byteAt_cell (l0 l1 : Lane) (i : Nat) :
    byteAt (cell l0 l1) i = if i < 8 then byteAt l0 i else byteAt l1 (i - 8) := by
  by_cases hi : i < 8
  · rw [if_pos hi]
    refine extractLsb'_eq_of_getLsbD fun j hj => ?_
    have hlow : 8 * i + j < 64 := by omega
    rw [getLsbD_cell, if_pos hlow, getLsbD_byteAt, decide_eq_true hj, Bool.true_and]
  · rw [if_neg hi]
    refine extractLsb'_eq_of_getLsbD fun j hj => ?_
    have hhigh : ¬ 8 * i + j < 64 := by omega
    have hpos : 8 * i + j - 64 = 8 * (i - 8) + j := by omega
    rw [getLsbD_cell, if_neg hhigh, getLsbD_byteAt, decide_eq_true hj, Bool.true_and, hpos]

/-- A lane XORed into the second lane of a value changes bytes 8 to 15. -/
theorem byteAt_cell_xor_lane1 (x : Block) (tw : Lane) (i : Nat) :
    byteAt (cell (lane0 x) (lane1 x ^^^ tw)) i = if i < 8 then byteAt x i else byteAt x i ^^^ byteAt tw (i - 8) := by
  have hx : byteAt x i = if i < 8 then byteAt (lane0 x) i else byteAt (lane1 x) (i - 8) := by
    rw [← byteAt_cell, cell_lanes]
  rw [hx, byteAt_cell, byteAt_xor]
  split <;> rfl

/-! ### The variant (spec/42 R158) -/

theorem effVariant1_eq (v : BitVec 8) : effVariant1 v = decide (v = 1) := by
  rw [effVariant1, beq_eq_decide]

theorem ite_effVariant1 {α : Type} (v : BitVec 8) (x y : α) :
    (if effVariant1 v then x else y) = if v = 1 then x else y := by
  simp only [effVariant1_eq, decide_eq_true_eq]

theorem effVariant1_of_ne {v : BitVec 8} (hv : v ≠ 1) : effVariant1 v = false := by
  rw [effVariant1_eq, decide_eq_false hv]

/-! ### What MIX_INIT loads (spec/42 R150, R151) -/

/-- TWEAK byte by byte. -/
theorem byteAt_tweakOf (v : BitVec 8) (st : BitVec 1600) (nonce : Lane) {i : Nat} (hi : i < 8) :
    byteAt (tweakOf v st nonce) i = if v = 1 then byteAt st (192 + i) ^^^ byteAt nonce i else 0 := by
  have hzero : byteAt (0 : Lane) i = 0 := BitVec.extractLsb'_zero
  rw [tweakOf, ite_effVariant1, apply_ite (byteAt · i), byteAt_xor, laneFrom, byteAt_extractLsb' st 192 (n := 8) hi,
    hzero]

/-- Two 16-byte slices of STATE, XORed. -/
theorem byteAt_blockFrom_xor (st : BitVec 1600) (off off' : Nat) {i : Nat} (hi : i < 16) :
    byteAt (blockFrom st off ^^^ blockFrom st off') i = byteAt st (off + i) ^^^ byteAt st (off' + i) := by
  rw [byteAt_xor, byteAt_blockFrom _ _ _ hi, byteAt_blockFrom _ _ _ hi]

/-! ### The two cells of an iteration (spec/42 R155, R159) -/

section
variable {m : Memory} (h : Memory.wf m = true)
include h

/-- Step 5 after step 3: byte 11 of the value is tweaked. -/
theorem tweakByte11_writeCell {a : Nat} (ha : a + 16 ≤ spSize) (x : Block) :
    tweakByte11 (Memory.writeCell m a x) a =
      Memory.writeCell m a (setByte x 11 (byteAt x 11 ^^^ tweakXor (byteAt x 11))) := by
  have h3 := Memory.wf_writeCell h a x ha
  refine Memory.ext (wf_tweakByte11 h3 a ha) (Memory.wf_writeCell h a _ ha) fun y => ?_
  rw [read_tweakByte11 h3, Memory.read_writeCell h a x y ha, Memory.read_writeCell h a _ y ha]
  by_cases hy : y = a + 11
  · have hin : a ≤ y ∧ y < a + 16 := by omega
    have hoff : y - a = 11 := by omega
    rw [if_pos hy, if_pos hin, if_pos hin, hoff, byteAt_setByte_same _ _ _ (by decide)]
  · rw [if_neg hy]
    split
    · rw [byteAt_setByte_other _ _ _ _ (by omega)]
    · rfl

/-- Step 12 after step 10: TWEAK is XORed into the second lane of the value. -/
theorem tweakLane1_writeCell {a : Nat} (ha : a + 16 ≤ spSize) (x : Block) (tw : Lane) :
    tweakLane1 (Memory.writeCell m a x) a tw 8 = Memory.writeCell m a (cell (lane0 x) (lane1 x ^^^ tw)) := by
  have h10 := Memory.wf_writeCell h a x ha
  refine Memory.ext (wf_tweakLane1 h10 a tw 8 le_rfl ha) (Memory.wf_writeCell h a _ ha) fun y => ?_
  rw [read_tweakLane1 h10 a tw 8 y le_rfl ha, Memory.read_writeCell h a x y ha, Memory.read_writeCell h a _ y ha,
    byteAt_cell_xor_lane1]
  by_cases hin : a ≤ y ∧ y < a + 16
  · rw [if_pos hin, if_pos hin]
    by_cases hlow : y - a < 8
    · rw [if_pos hlow, if_neg (by omega)]
    · rw [if_neg hlow, if_pos (by omega), Nat.sub_add_eq]
  · rw [if_neg hin, if_neg hin, if_neg (by omega)]

/-- Steps 3 to 5 are one write of a cell. -/
theorem ite_tweakByte11_eq_writeCell (v : BitVec 8) {a : Nat} (ha : a + 16 ≤ spSize) (x : Block) :
    (if effVariant1 v then tweakByte11 (Memory.writeCell m a x) a else Memory.writeCell m a x) =
      Memory.writeCell m a (tweaked11 v x) := by
  rw [ite_effVariant1, tweakByte11_writeCell h ha, tweaked11, apply_ite (Memory.writeCell m a)]

/-- Steps 10 to 12 are one write of a cell. -/
theorem ite_tweakLane1_eq_writeCell (v : BitVec 8) {a : Nat} (ha : a + 16 ≤ spSize) (x : Block) (tw : Lane) :
    (if effVariant1 v then tweakLane1 (Memory.writeCell m a x) a tw 8 else Memory.writeCell m a x) =
      Memory.writeCell m a (tweakedLane1 v tw x) := by
  rw [ite_effVariant1, tweakLane1_writeCell h ha, tweakedLane1, apply_ite (Memory.writeCell m a)]

/-- Two cells named by values are one cell or disjoint (spec/20 R55, spec/42 R159). -/
theorem readCell_writeCell_spAddr (x y v : Block) :
    Memory.readCell (Memory.writeCell m (spAddr x) v) (spAddr y) =
      if spAddr y = spAddr x then v else Memory.readCell m (spAddr y) := by
  have hx := spAddr_mod x
  have hy := spAddr_mod y
  split
  case isTrue heq => rw [heq, Memory.readCell_writeCell_same h _ _ (spAddr_le x)]
  case isFalse hne => exact Memory.readCell_writeCell_other h _ _ _ (spAddr_le x) (by omega)

end

/-- One iteration as two cell writes, the second on top of the first: the value d is read between them. -/
theorem mixStepBody_eq {s : State} (h : Memory.wf s.sp = true) :
    let c := aesRound (Memory.readCell s.sp (spAddr s.a)) s.a
    let m5 := Memory.writeCell s.sp (spAddr s.a) (tweaked11 s.varL (s.b ^^^ c))
    let d := Memory.readCell m5 (spAddr c)
    let sum := laneAdd s.a (mulLanes c d)
    mixStepBody s =
      { s with
        sp := Memory.writeCell m5 (spAddr c) (tweakedLane1 s.varL s.tweak sum)
        a := sum ^^^ d
        b := c
        iter := s.iter + 1 } := by
  intro c m5 d sum
  have h5 : Memory.wf m5 = true := Memory.wf_writeCell h _ _ (spAddr_le _)
  simp only [mixStepBody, mixIteration, ite_tweakByte11_eq_writeCell h s.varL (spAddr_le _)]
  rw [ite_tweakLane1_eq_writeCell h5 s.varL (spAddr_le _)]

/-! ### The loop of MIX_RUN (spec/42 R157) -/

theorem mixIterations_eq_two_pow : mixIterations = 2 ^ 19 := by
  rw [mixIterations_eq]; norm_num

/-- Below 2^19 the counter does not wrap. -/
theorem toNat_iter_mixIteration (e : Bool) {s : State} (h : s.iter.toNat < mixIterations) :
    (mixIteration e s).iter.toNat = s.iter.toNat + 1 := by
  have hcount := mixIterations_eq
  have hone : (1 : BitVec 20).toNat = 1 := rfl
  rw [mixIteration_iter, BitVec.toNat_add, hone]
  omega

theorem mixLoop_of_iter_eq (fuel : Nat) {s : State} (h : s.iter.toNat = mixIterations) : mixLoop fuel s = s := by
  cases fuel with
  | zero => rfl
  | succ fuel => rw [mixLoop, if_neg h.not_lt]

theorem mixLoop_succ_of_lt (fuel : Nat) {s : State} (h : s.iter.toNat < mixIterations) :
    mixLoop (fuel + 1) s = mixLoop fuel (mixIteration (effVariant1 s.varL) s) := by
  rw [mixLoop, if_pos h]

/-- With n iterations missing and a bound of n or more, the loop runs n iterations and ITER ends at 2^19. -/
theorem mixLoop_finishes {n fuel : Nat} {s : State} (hn : s.iter.toNat + n = mixIterations) (hfuel : n ≤ fuel) :
    mixLoop fuel s = Nat.iterate (mixIteration (effVariant1 s.varL)) n s ∧
      (mixLoop fuel s).iter.toNat = mixIterations := by
  induction n generalizing fuel s with
  | zero =>
    rw [mixLoop_of_iter_eq fuel hn]
    exact ⟨rfl, hn⟩
  | succ n ih =>
    obtain ⟨fuel, rfl⟩ := Nat.exists_eq_succ_of_ne_zero (Nat.ne_zero_of_lt hfuel)
    have hlt : s.iter.toNat < mixIterations := by omega
    have hnext := toNat_iter_mixIteration (effVariant1 s.varL) hlt
    obtain ⟨hloop, hiter⟩ := @ih fuel (mixIteration (effVariant1 s.varL) s) (by omega) (by omega)
    rw [mixIteration_varL] at hloop
    rw [mixLoop_succ_of_lt fuel hlt, Function.iterate_succ_apply]
    exact ⟨hloop, hiter⟩

/-- MIX_RUN is the iterations that are missing, and ITER ends at 2^19. -/
theorem mixRunBody_finishes {n : Nat} {s : State} (hn : s.iter.toNat + n = mixIterations) :
    mixRunBody s = Nat.iterate (mixIteration (effVariant1 s.varL)) n s ∧ (mixRunBody s).iter.toNat = mixIterations :=
  mixLoop_finishes hn (by omega)

/-- An iteration done before MIX_RUN is one MIX_RUN has not to do. -/
theorem mixRunBody_mixStepBody {s : State} (h : s.iter.toNat < mixIterations) :
    mixRunBody (mixStepBody s) = mixRunBody s := by
  obtain ⟨n, hn⟩ := Nat.exists_eq_add_of_lt h
  have hnext := toNat_iter_mixIteration (effVariant1 s.varL) h
  rw [mixStepBody, (mixRunBody_finishes (s := s) (n := n + 1) (by omega)).1, Function.iterate_succ_apply,
    (mixRunBody_finishes (n := n) (by omega)).1, mixIteration_varL]

/-! ### VAR_L (spec/30 R85, spec/42 R158) -/

/-- The state with another variant latched. -/
def State.withVarL (s : State) (v : BitVec 8) : State := { s with varL := v }

section
variable (s : State) (v : BitVec 8)

@[simp] theorem State.withVarL_varL : (s.withVarL v).varL = v := rfl

@[simp] theorem State.withVarL_iter : (s.withVarL v).iter = s.iter := rfl

@[simp] theorem State.withVarL_withVarL (u : BitVec 8) : (s.withVarL u).withVarL v = s.withVarL v := rfl

theorem complete_withVarL : (s.withVarL v).complete = s.complete.withVarL v := rfl

theorem kpermBody_withVarL : kpermBody (s.withVarL v) = (kpermBody s).withVarL v := rfl

theorem mixIteration_withVarL (e : Bool) : mixIteration e (s.withVarL v) = (mixIteration e s).withVarL v := by
  cases s; rfl

/-- COMPRESS does not look at VAR_L. Stated over a general loop outcome, so that the kernel never unfolds the loop. -/
theorem compressBody_withVarL : compressBody (s.withVarL v) = (compressBody s).withVarL v := by
  have h : ∀ rks r, compressWith rks r (s.withVarL v) = (compressWith rks r s).withVarL v := fun _ _ => rfl
  exact h _ _

variable {v}

theorem mixStepBody_withVarL (hv : v ≠ 1) : mixStepBody (s.withVarL v) = (mixStepBody (s.withVarL 0)).withVarL v := by
  rw [mixStepBody, mixStepBody, State.withVarL_varL, State.withVarL_varL, effVariant1_of_ne hv,
    effVariant1_of_ne (v := 0) (by decide), mixIteration_withVarL, mixIteration_withVarL,
    State.withVarL_withVarL]

/-- The loop looks at VAR_L only to see whether it is 1. -/
theorem mixLoop_withVarL (hv : v ≠ 1) (fuel : Nat) :
    mixLoop fuel (s.withVarL v) = (mixLoop fuel (s.withVarL 0)).withVarL v := by
  induction fuel generalizing s with
  | zero => rfl
  | succ fuel ih =>
    simp only [mixLoop, State.withVarL_iter, State.withVarL_varL, effVariant1_of_ne hv,
      effVariant1_of_ne (v := 0) (by decide), mixIteration_withVarL]
    split
    · exact ih _
    · rfl

theorem mixRunBody_withVarL (hv : v ≠ 1) : mixRunBody (s.withVarL v) = (mixRunBody (s.withVarL 0)).withVarL v :=
  mixLoop_withVarL s hv _

/-- TWEAK is 0 under every variant but 1. -/
theorem mixInitBody_of_ne (hv : v ≠ 1) : mixInitBody v s = (mixInitBody 0 s).withVarL v := by
  simp only [mixInitBody, tweakOf, effVariant1_of_ne hv, effVariant1_of_ne (v := 0) (by decide),
    State.withVarL]

/-- HASH looks at its variant only to see whether it is 1. -/
theorem hashBody_of_ne (hv : v ≠ 1) : hashBody v s = (hashBody 0 s).withVarL v := by
  have hrun : mixRunBody (mixInitBody v (spInitBody s)) = (mixRunBody (mixInitBody 0 (spInitBody s))).withVarL v := by
    rw [mixInitBody_of_ne _ hv, mixRunBody_withVarL _ hv, ← mixInitBody_of_ne _ (by decide)]
  rw [hashBody, hashStages, hrun, compressBody_withVarL, kpermBody_withVarL, hashBody, hashStages]

end

/-! ### MIX_INIT and SP_INIT (spec/42 R151, spec/70 R269) -/

/-- SP_INIT writes nothing that MIX_INIT reads, and MIX_INIT nothing that SP_INIT reads. Stated over a general loop
outcome, so that the kernel never unfolds the loop. -/
theorem mixInitBody_spInitBody (v : BitVec 8) (s : State) :
    mixInitBody v (spInitBody s) = spInitBody (mixInitBody v s) := by
  have h : ∀ (rks : BitVec 1280) (m : Memory),
      mixInitBody v { s with rk := rks, sp := m } = { mixInitBody v s with rk := rks, sp := m } := fun _ _ => rfl
  simp only [spInitBody, mixInitBody_state, mixInitBody_sp]
  exact h _ _

end Sys2Proof.Machine
end

section
/-! The statements of the family of spec/42, the mixer. -/

namespace Sys2Proof.Machine

open Sys2Proof.Claims

/-- Settles O41: the lanes are the quotient and the rest of the product by 2^64. -/
theorem productIsExactHighFirst : Obligations.ProductIsExactHighFirst := by
  intro c d
  rw [lane0_mulLanes, lane1_mulLanes, Nat.div_add_mod']

/-- Settles O43: the slices of STATE are read byte by byte. -/
theorem mixInitLoadsMixer : Obligations.MixInitLoadsMixer := by
  refine fun s v => ⟨_, exec_mixInit v s, rfl, fun i hi => ?a, fun i hi => byteAt_blockFrom_xor s.state 16 48 hi,
    fun i hi => byteAt_tweakOf v s.state s.nonce hi⟩
  case a =>
    rw [State.complete_a, mixInitBody_a, byteAt_blockFrom_xor s.state 0 32 hi, Nat.zero_add]

/-- Settles O44: the iteration is two cell writes, and its cells are one or disjoint. -/
theorem mixStepRunsOneIteration : Obligations.MixStepRunsOneIteration := by
  intro s hwf c x d sum
  have hfirst : Memory.wf (Memory.writeCell s.sp (spAddr s.a) x) = true := Memory.wf_writeCell hwf _ _ (spAddr_le _)
  have hd : Memory.readCell (Memory.writeCell s.sp (spAddr s.a) x) (spAddr c) = d :=
    readCell_writeCell_spAddr hwf s.a c x
  -- SP is kept behind a name, so that comparing states never unfolds the writes.
  obtain ⟨m, hm⟩ : ∃ m, m = Memory.writeCell (Memory.writeCell s.sp (spAddr s.a) x) (spAddr c)
    (tweakedLane1 s.varL s.tweak sum) := ⟨_, rfl⟩
  refine ⟨completed { s with sp := m, a := sum ^^^ d, b := c, iter := s.iter + 1 }, ?exec, rfl, ?second,
    fun hne => ?first, fun y hc ha => ?rest⟩
  case exec => rw [exec_mixStep, mixStepBody_eq hwf, hd, hm]; rfl
  case second =>
    show Memory.readCell m _ = _
    rw [hm, Memory.readCell_writeCell_same hfirst _ _ (spAddr_le c)]
  case first =>
    show Memory.readCell m _ = _
    rw [hm, readCell_writeCell_spAddr hfirst, if_neg hne.symm, Memory.readCell_writeCell_same hwf _ _ (spAddr_le s.a)]
  case rest =>
    show Memory.read m _ = _
    rw [hm, Memory.read_writeCell hfirst _ _ y (spAddr_le c), if_neg hc,
      Memory.read_writeCell hwf _ _ y (spAddr_le s.a), if_neg ha]

/-- Settles O45: the loop is its missing iterations. -/
theorem mixRunFinishesTheLoop : Obligations.MixRunFinishesTheLoop := by
  intro s hle
  have hmissing : s.iter.toNat + (2 ^ 19 - s.iter.toNat) = mixIterations := by rw [mixIterations_eq_two_pow]; omega
  obtain ⟨hrun, hiter⟩ := mixRunBody_finishes hmissing
  rw [effVariant1_eq] at hrun
  exact ⟨_, exec_mixRun s, hiter.trans mixIterations_eq_two_pow, congrArg State.complete hrun,
    congrArg completed (mixRunBody_frame s)⟩

/-- Settles O46: MIX_RUN looks at no completion flag, so MIX_STEP's iteration is all it leaves. -/
theorem mixStepThenRunIsRun : Obligations.MixStepThenRunIsRun := by
  intro s hlt
  refine ⟨_, _, exec_mixStep s, exec_mixRun _, ?_⟩
  have hrun := mixRunBody_mixStepBody (hlt.trans_eq mixIterations_eq_two_pow.symm)
  rw [mixRunBody_complete, complete_complete, hrun, exec_mixRun]

/-- Settles O47: only the question whether VAR_L is 1 reaches the arithmetic. -/
theorem variantsOtherThanOneRunAsZero : Obligations.VariantsOtherThanOneRunAsZero := by
  intro s v hv
  refine ⟨⟨_, exec_mixStep (s.withVarL 0), ?step⟩, ⟨_, exec_mixRun (s.withVarL 0), ?run⟩,
    fun hk => ⟨_, exec_hash_of_answers 0 hk, ?hash⟩⟩
  case step =>
    show exec .mixStep (s.withVarL v) = .next (State.withVarL _ v)
    rw [exec_mixStep, mixStepBody_withVarL s hv, complete_withVarL]
  case run =>
    show exec .mixRun (s.withVarL v) = .next (State.withVarL _ v)
    rw [exec_mixRun, mixRunBody_withVarL s hv, complete_withVarL]
  case hash =>
    show exec (.hash v) s = .next (State.withVarL _ v)
    rw [exec_hash_of_answers v hk, hashBody_of_ne s hv, complete_withVarL]

/-- Settles O48: neither command reads what the other writes. -/
theorem mixInitCommutesWithSpInit : Obligations.MixInitCommutesWithSpInit := by
  intro s v
  refine ⟨_, _, _, exec_spInit s, exec_mixInit v _, exec_mixInit v s, ?_⟩
  rw [exec_spInit, mixInitBody_complete, spInitBody_complete, mixInitBody_spInitBody]

/-- Settles O40: the eight rows decide it for every byte. -/
theorem byteTweakTable : Obligations.ByteTweakTable := by
  unfold Obligations.ByteTweakTable
  decide

/-- Settles O42: each lane of the sum is the sum of the lanes. -/
theorem lanesAddModulo64 : Obligations.LanesAddModulo64 := by
  intro x y
  rw [lane0_laneAdd, lane1_laneAdd, BitVec.toNat_add, BitVec.toNat_add]
  exact ⟨rfl, rfl⟩

end Sys2Proof.Machine
end

section
/-! SUPPORT. The rules of the compressor and of KPERM, HASH and NOP (spec/43): the cells and the slice of STATE that
COMPRESS leaves, and the completion steps where the Keccak unit answers. -/

namespace Sys2Proof.Machine

open Sys2Proof.Claims

theorem exec_nop (s : State) : exec .nop s = .next (completed s) := rfl

theorem exec_compress (s : State) : exec .compress s = .next (compressBody s).complete := rfl

theorem exec_kperm (s : State) :
    exec .kperm s = .next (if s.keccakAnswers then (kpermBody s).complete else s.awaitKeccak) := rfl

theorem exec_kperm_of_answers {s : State} (h : s.keccakAnswers = true) :
    exec .kperm s = .next (kpermBody s).complete := by
  rw [exec_kperm, if_pos h]

/-! ### What COMPRESS leaves (spec/43 R180, R181) -/

/-- The chunks of SP fit into SP (spec/20 R57). -/
theorem chunks_fit : 128 * (0 + chunkCount) ≤ spSize := by rw [chunkCount_eq, spSize_eq]

section
variable {s : State} (h : Memory.wf s.sp = true) {j : Nat} (hj : j < 8)
include h hj

/-- Sub-block j of chunk n takes the encryption of itself XOR what the chunk before left, the seed for chunk 0. -/
theorem chunkCell_compressBody {n : Nat} (hn : n < 2 ^ 14) :
    chunkCell (compressBody s).sp n j =
      encryptRounds (chunkCell s.sp n j ^^^
        if n = 0 then blockFrom s.state (64 + 16 * j) else chunkCell (compressBody s).sp (n - 1) j)
        (compressBody s).rk := by
  have hcell := (compressLoop_cell (expandKey (s.state.extractLsb' 256 256)) chunkCount 0 (seedBlocks s.state) h
    (length_seedBlocks _) chunks_fit j hj n (by rw [chunkCount_eq]; exact hn)).1
  rwa [Nat.zero_add, getD_seedBlocks _ _ hj, ← compressBody_sp, ← compressBody_rk] at hcell

/-- STATE[64:192) takes the last chunk, sub-block by sub-block. -/
theorem blockFrom_compressBody_state :
    blockFrom (compressBody s).state (64 + 16 * j) = chunkCell (compressBody s).sp (2 ^ 14 - 1) j := by
  have hlast : 2 ^ 14 - 1 + 1 = chunkCount := by norm_num [chunkCount_eq]
  have hcarry := (compressLoop_cell (expandKey (s.state.extractLsb' 256 256)) chunkCount 0 (seedBlocks s.state) h
    (length_seedBlocks _) chunks_fit j hj (2 ^ 14 - 1) (Nat.lt_of_succ_le hlast.le)).2 hlast
  rwa [Nat.zero_add, ← blockFrom_putBlocks s.state _ j hj, ← compressBody_state, ← compressBody_sp] at hcarry

end

end Sys2Proof.Machine
end

section
/-! The statements of the family of spec/43, the compressor, KPERM, HASH and NOP. -/

namespace Sys2Proof.Machine

open Sys2Proof.Claims

/-- Settles O49: SP cell by cell, the carry it ends with in STATE, and RK as KEYEXP of the same key makes it. -/
theorem compressFoldsScratchpad : Obligations.CompressFoldsScratchpad := by
  intro s hwf
  -- The registers of the completed state are rewritten, so that the kernel never compares states by unfolding the loop.
  refine ⟨(compressBody s).complete, exec_compress s, ?frame, ?keys, fun j hj => ⟨?first, fun n hn => ?next, ?carry⟩,
    fun i hi => ?rest⟩
  case frame =>
    rw [State.complete_rk, State.complete_sp, State.complete_state, complete_eq_completed]
    exact congrArg completed (compressBody_frame s)
  case keys => rw [exec_keyexp, State.complete_rk, compressBody_rk]
  case first =>
    rw [State.complete_sp, State.complete_rk, chunkCell_compressBody hwf hj (by decide), if_pos rfl]
  case next =>
    rw [State.complete_sp, State.complete_rk, chunkCell_compressBody hwf hj hn, if_neg n.succ_ne_zero,
      Nat.add_sub_cancel]
  case carry =>
    rw [State.complete_sp, State.complete_state]
    exact blockFrom_compressBody_state hwf hj
  case rest =>
    rw [State.complete_state, compressBody_state]
    exact byteAt_putBlocks_outside _ _ i hi

/-- Settles O51: no stage looks at the completion flags that the stage before it leaves. -/
theorem hashIsItsFiveStages : Obligations.HashIsItsFiveStages := by
  intro s v hk
  refine ⟨_, _, _, _, _, exec_spInit s, exec_mixInit v _, exec_mixRun _, exec_compress _,
    exec_kperm_of_answers ?answers, ?hash⟩
  case answers =>
    rw [State.complete_keccakAnswers, compressBody_keccakAnswers, State.complete_keccakAnswers,
      mixRunBody_keccakAnswers, State.complete_keccakAnswers, mixInitBody_keccakAnswers,
      State.complete_keccakAnswers, spInitBody_keccakAnswers, hk]
  case hash =>
    rw [exec_hash_of_answers v hk, hashBody, hashStages, mixInitBody_complete, complete_complete, mixRunBody_complete,
      complete_complete, compressBody_complete, complete_complete, kpermBody_complete, complete_complete]

/-- Settles O50: KPERM's completion step where the Keccak unit answers. -/
theorem kpermReplacesState : Obligations.KpermReplacesState := by
  intro s hk
  rw [exec_kperm_of_answers hk, kpermBody, complete_eq_completed]

/-- Settles O53: NOP has no body, only the end of its completion step. -/
theorem nopOnlyCompletes : Obligations.NopOnlyCompletes := exec_nop

end Sys2Proof.Machine
end

section
/-! SUPPORT. The rules of the host's accesses (spec/44): the write sets as the table of R206, what a read or a write of
a register or of a byte array does, and the bytes of the regions after a write and after a command. -/

namespace Sys2Proof

/-- A byte above those packed is 0. -/
theorem byteAt_pack_above {w n i : Nat} (f : Nat → Byte) (hi : n ≤ i) : byteAt (pack w f n) i = 0 := by
  apply BitVec.eq_of_getLsbD_eq
  intro j _
  have hout : ¬ 8 * i + j < 8 * n := by omega
  simp [getLsbD_byteAt, getLsbD_pack f n _ (by decide : 0 < 8), hout]

end Sys2Proof

namespace Sys2Proof.Machine

open Sys2Proof.Claims

/-! ### Rows of the address map (spec/20 R59, R61) -/

/-- The start of a row belongs to the row. -/
theorem regionOf_start {r : RegionRow} (hr : r ∈ regionRows) : regionOf r.start = some r := by
  have hpos : ∀ r ∈ regionRows, 0 < r.bytes := by decide
  exact regionOf_eq_some hr (Nat.le_refl _) (Nat.lt_add_of_pos_right (hpos r hr))

/-- The start of a row fits the 22 bits of a window address (spec/20 R50). -/
theorem toNat_start {r : RegionRow} (hr : r ∈ regionRows) : (BitVec.ofNat 22 r.start).toNat = r.start := by
  have hin : ∀ r ∈ regionRows, r.start < 2 ^ 22 := by decide
  rw [BitVec.toNat_ofNat, Nat.mod_eq_of_lt (hin r hr)]

/-- The length of a region in bytes (spec/20 R61); `regionRows_bytes` ties it to the address map. -/
def regionLength : Region → Nat
  | .sp => 2097152
  | .state => 200
  | .key => 32
  | .rk => 160
  | .blk | .rkey | .a | .b => 16
  | .nonce | .tweak => 8
  | .cmd | .status | .ctrl | .iter | .msglen | .id => 4

theorem regionRows_bytes : ∀ r ∈ regionRows, r.bytes = regionLength r.region := by decide

/-- The writable byte arrays (spec/20 R61). -/
theorem region_of_writable : ∀ r ∈ regionRows, r.cls = .byteArray → r.access = .rw →
    r.region = .sp ∨ r.region = .state ∨ r.region = .nonce ∨ r.region = .key ∨ r.region = .blk ∨
      r.region = .rkey := by
  decide

/-! ### Write sets (spec/44 R206) -/

section
variable {s : State} {cmd : Instr} {r q : Region} {i : Nat}

/-- A span that covers its whole region holds exactly the bytes of that region. -/
theorem wholeSpan_eq {n : Nat} (hi : i < regionLength r) (hn : n = regionLength q) :
    (q == r && decide (0 ≤ i) && decide (i < n)) = (r == q) := by
  rw [Bool.eq_iff_iff]
  simp only [Bool.and_eq_true, decide_eq_true_eq, beq_iff_eq, Nat.zero_le, and_true]
  constructor
  · rintro ⟨rfl, -⟩; rfl
  · rintro rfl; exact ⟨rfl, hn ▸ hi⟩

/-- Inside a region, the model's write sets are the table written out in the statements. -/
theorem inWriteSet_eq_writtenByte (cmd : Instr) (hi : i < regionLength r) :
    inWriteSet cmd r i = writtenByte cmd r i := by
  have hrk := wholeSpan_eq (q := .rk) hi (n := 160) rfl
  have hsp := wholeSpan_eq (q := .sp) hi spSize_eq
  have hblk := wholeSpan_eq (q := .blk) hi (n := 16) rfl
  have ha := wholeSpan_eq (q := .a) hi (n := 16) rfl
  have hb := wholeSpan_eq (q := .b) hi (n := 16) rfl
  have htweak := wholeSpan_eq (q := .tweak) hi (n := 8) rfl
  have hiter := wholeSpan_eq (q := .iter) hi (n := 4) rfl
  have hstate := wholeSpan_eq (q := .state) hi (n := 200) rfl
  have hcomm : (Region.state == r) = (r == .state) := Bool.beq_comm
  rw [hcomm] at hstate
  cases cmd <;>
    simp only [inWriteSet, writeSet, writtenByte, List.any_cons, List.any_nil, Bool.or_false, ← Bool.or_assoc,
      hrk, hsp, hblk, ha, hb, htweak, hiter, hstate, hcomm]

theorem writtenByte_sp : writtenByte cmd .sp i = writesSp cmd := by cases cmd <;> rfl
theorem writtenByte_rk : writtenByte cmd .rk i = writesRk cmd := by cases cmd <;> rfl
theorem writtenByte_blk : writtenByte cmd .blk i = writesBlk cmd := by cases cmd <;> rfl
theorem writtenByte_a : writtenByte cmd .a i = writesMixer cmd := by cases cmd <;> rfl
theorem writtenByte_b : writtenByte cmd .b i = writesMixer cmd := by cases cmd <;> rfl
theorem writtenByte_iter : writtenByte cmd .iter i = writesMixer cmd := by cases cmd <;> rfl
theorem writtenByte_tweak : writtenByte cmd .tweak i = latchesVariant cmd := by cases cmd <;> rfl

/-- Outside the table, a byte of STATE is one of a command that leaves STATE alone, or lies outside the slice that
COMPRESS writes. -/
theorem state_not_written (h : writtenByte cmd .state i = false) :
    writesState cmd = false ∨ (cmd = .compress ∧ (i < 64 ∨ 192 ≤ i)) := by
  cases cmd with
  | compress =>
    have hout : 64 ≤ i → 192 ≤ i := by simpa [writtenByte] using h
    exact .inr ⟨rfl, by omega⟩
  | kperm | hash => cases h
  | _ => exact .inl rfl

/-- Of the word-only registers, only ITER is in a write set. -/
theorem writtenByte_control (hr : r ∈ [.cmd, .status, .ctrl, .msglen, .id]) : writtenByte cmd r i = false := by
  have hne : r ≠ .rk ∧ r ≠ .sp ∧ r ≠ .blk ∧ r ≠ .a ∧ r ≠ .b ∧ r ≠ .tweak ∧ r ≠ .iter ∧ r ≠ .state := by
    revert r; decide
  cases cmd <;> simp [writtenByte, hne]

theorem byteBusy_control (hr : r ∈ [.cmd, .status, .ctrl, .msglen, .id]) : byteBusy s r i = false := by
  unfold byteBusy
  split
  · exact writtenByte_control hr
  · rfl

/-- An aligned access hits the running command's write set exactly where the table gives one of its bytes to the
command. -/
theorem hitsWriteSet_iff {addr : Nat} {r : RegionRow} {z : Size} (hr : regionOf addr = some r)
    (hal : addr % z.bytes = 0) :
    s.hitsWriteSet r.region (addr - r.start) z.bytes = true ↔
      ∃ k < z.bytes, byteBusy s r.region (addr - r.start + k) = true := by
  have hin : addr - r.start + z.bytes ≤ regionLength r.region :=
    regionRows_bytes r (regionOf_some hr).1 ▸ access_inside hr hal
  unfold State.hitsWriteSet byteBusy
  cases s.running with
  | none => simp
  | some cmd =>
    simp only [List.any_eq_true, List.mem_range]
    refine exists_congr fun k => and_congr_right fun hk => ?_
    rw [inWriteSet_eq_writtenByte cmd (by omega)]

/-- An aligned access misses the write set where the table gives none of its bytes to the running command. -/
theorem hitsWriteSet_eq_false {addr : Nat} {r : RegionRow} {z : Size} (hr : regionOf addr = some r)
    (hal : addr % z.bytes = 0) (hfree : ∀ k, k < z.bytes → byteBusy s r.region (addr - r.start + k) = false) :
    s.hitsWriteSet r.region (addr - r.start) z.bytes = false := by
  rw [← Bool.not_eq_true, hitsWriteSet_iff hr hal]
  rintro ⟨k, hk, hbusy⟩
  rw [hfree k hk] at hbusy
  cases hbusy

end

/-! ### Reads (spec/44 R200, R206, R209) -/

/-- A value drawn for a read fits the size of the read (spec/30 R87). -/
theorem toNat_lanes_lt (z : Size) (v : Word) : (z.lanes v).toNat < 2 ^ (8 * z.bytes) := by
  have hsize : 8 * z.bytes ≤ 32 := by cases z <;> decide
  rw [Size.lanes, and_lowMask v hsize, BitVec.toNat_setWidth]
  exact (Nat.mod_le _ _).trans_lt (v.extractLsb' 0 (8 * z.bytes)).isLt

/-- The bytes read of a region, lowest first (spec/30 R87). -/
theorem byteAt_regionBytes (s : State) (r : Region) (off : Nat) {n k : Nat} (hn : n ≤ 4) (hk : k < n) :
    byteAt (s.regionBytes r off n) k = s.regionByte r (off + k) := byteAt_pack _ n k (by omega) hk

/-- An aligned read of the running command's write set draws its value (spec/44 R200, log 7). -/
theorem hostRead_writeSet {s : State} {z : Size} {addr : Nat} {r : RegionRow} (hr : regionOf addr = some r)
    (hal : addr % z.bytes = 0) (hsize : r.cls = .byteArray ∨ z = .four) (hcmd : r.region ≠ .cmd)
    (hhit : s.hitsWriteSet r.region (addr - r.start) z.bytes = true) :
    s.hostRead z addr = s.answerRead (z.lanes (Config.busyRead s.draws)) 1 := by
  have hfits : ¬ (r.cls = .wordOnly ∧ z ≠ .four) := by
    rcases hsize with h | h <;> simp [h]
  simp [State.hostRead, hr, hal, hfits, hcmd, hhit]

/-- RD32 of a word-only register other than CMD, outside the write set, at its address in the map. -/
theorem exec_rd32_register {s : State} {r : RegionRow} (hr : r ∈ regionRows) (hcls : r.cls = .wordOnly)
    (hcmd : r.region ≠ .cmd) (hfree : ∀ k, byteBusy s r.region k = false) :
    exec (.rd32 (BitVec.ofNat 22 r.start)) s =
      .next (s.answerRead (s.regValue r.region).1 (s.regValue r.region).2) := by
  have hrow := regionOf_start hr
  have hal := (regionRows_aligned r hr).1
  have hread := hostRead_wordOnly hrow hal hcls hcmd (hitsWriteSet_eq_false (z := .four) hrow hal fun k _ => hfree _)
  have hexec := exec_readOf .four (BitVec.ofNat 22 r.start) s
  rw [toNat_start hr, hread] at hexec
  exact hexec

/-- CTRL holds the two enables in bits 0 and 1, and 0 above (spec/44 R209). -/
theorem ctrlWord_fields (s : State) :
    s.ctrlWord.getLsbD 0 = s.ieDone ∧ s.ctrlWord.getLsbD 1 = s.ieErr ∧ s.ctrlWord.extractLsb' 2 30 = 0 := by
  have hbit : ∀ j < 32, s.ctrlWord.getLsbD j = ((decide (j = 0) && s.ieDone) || (decide (j = 1) && s.ieErr)) := by
    intro j hj
    rw [State.ctrlWord, BitVec.getLsbD_or, getLsbD_bit32, getLsbD_bit32_shiftLeft _ _ _ hj]
  refine ⟨?_, ?_, extractLsb'_eq_of_getLsbD fun j hj => ?_⟩
  · rw [hbit 0 (by decide)]; simp
  · rw [hbit 1 (by decide)]; simp
  · have h1 : 2 + j ≠ 1 := by omega
    rw [hbit _ (by omega)]
    simp [h1]

section
variable {s : State} {cmd : Instr} {mixReady : Bool} {sel : BitVec 2} {varL : BitVec 8}

/-- A value MIX_READY may show while a command runs: the one before, or the one after a command that sets it
(spec/44 R206). -/
def mixReadyShown (s : State) (cmd : Instr) (m : Bool) : Prop :=
  m = s.mixReady ∨ (latchesVariant cmd = true ∧ m = true)

/-- A value VAR_L may show while a command runs (spec/44 R206). -/
def varLShown (s : State) (cmd : Instr) (v : BitVec 8) : Prop :=
  v = s.varL ∨ ∃ w, (cmd = .mixInit w ∨ cmd = .hash w) ∧ v = w

/-- A value SEL may show while a command runs (spec/44 R206). -/
def selShown (s : State) (cmd : Instr) (x : BitVec 2) : Prop :=
  x = s.sel ∨ (cmd = .kperm ∧ x = (kpermBody s).sel) ∨ ∃ w, cmd = .hash w ∧ x = (hashBody w s).sel

/-- The values after a command are among those STATUS may show. -/
theorem statusAfter_shown (h : statusAfter s cmd = some (mixReady, sel, varL)) :
    mixReadyShown s cmd mixReady ∧ selShown s cmd sel ∧ varLShown s cmd varL := by
  have fields {m : Bool} {x : BitVec 2} {v : BitVec 8} (h : some (m, x, v) = some (mixReady, sel, varL)) :
      mixReady = m ∧ sel = x ∧ varL = v := by
    cases h
    exact ⟨rfl, rfl, rfl⟩
  cases cmd with
  | mixInit v =>
    obtain ⟨hmix, hsel, hvarL⟩ := fields h
    exact ⟨.inr ⟨rfl, hmix⟩, .inl hsel, .inr ⟨v, .inl rfl, hvarL⟩⟩
  | kperm =>
    obtain ⟨hmix, hsel, hvarL⟩ := fields h
    exact ⟨.inl hmix, .inr (.inl ⟨rfl, hsel⟩), .inl hvarL⟩
  | hash v =>
    obtain ⟨hmix, hsel, hvarL⟩ := fields h
    exact ⟨.inr ⟨rfl, hmix⟩, .inr (.inr ⟨v, rfl, hsel⟩), .inr ⟨v, .inr rfl, hvarL⟩⟩
  | _ => cases h

/-- STATUS while a command runs is a STATUS word: exact flags and code, and of each other field one of the values it
may show (spec/44 R206, log 10). -/
theorem readStatus_of_running (h : s.running = some cmd) :
    ∃ mixReady sel varL n, s.readStatus = (statusOf s.busy s.done s.err s.ecode mixReady sel varL, n) ∧
      mixReadyShown s cmd mixReady ∧ selShown s cmd sel ∧ varLShown s cmd varL := by
  rw [State.readStatus, h, Option.bind_some]
  cases hafter : statusAfter s cmd with
  | none => exact ⟨_, _, _, _, rfl, .inl rfl, .inl rfl, .inl rfl⟩
  | some after =>
    obtain ⟨mixReady, sel, varL⟩ := after
    obtain ⟨hmix, hsel, hvarL⟩ := statusAfter_shown hafter
    exact ⟨_, _, _, _, rfl, iteInduction (fun _ => hmix) (fun _ => .inl rfl),
      iteInduction (fun _ => hsel) (fun _ => .inl rfl), iteInduction (fun _ => hvarL) (fun _ => .inl rfl)⟩

end

/-! ### Writes (spec/44 R201, R203, R204) -/

/-- A write transaction of any size is `State.hostWrite`. -/
theorem exec_writeOf (z : Size) (addr : WinAddr) (d : Word) (s : State) :
    exec (writeOf z addr d) s = .next (s.hostWrite z addr.toNat d) := by
  cases z <;> rfl

/-- A flag that is cleared where p is 1 (the W1C access of spec/20 R61). -/
theorem ite_false_eq_and_not (p b : Bool) : (if p then false else b) = (b && !p) := by
  cases p <;> simp

theorem exec_wr32_status (s : State) (w : Word) :
    exec (.wr32 0x200104 w) s = .next ((s.statusWrite w).answer .ok none) := rfl

theorem exec_wr32_ctrl (s : State) (w : Word) :
    exec (.wr32 0x200108 w) s = .next ((s.ctrlWrite w).answer .ok none) := rfl

/-- While no command runs, WR32 of MSGLEN stores the word. -/
theorem exec_wr32_msglen_of_idle {s : State} (hb : s.busy = false) (w : Word) :
    exec (.wr32 0x200110 w) s = .next ({ s with msglen := w }.answer .ok none) := by
  have hrow : regionOf 0x200110 = some ⟨0x200110, 4, .msglen, .wordOnly, .rw⟩ := by decide
  show Host.Outcome.next (s.hostWrite .four 0x200110 w) = _
  simp [State.hostWrite, hrow, hb, Size.bytes]

/-- While no command runs, an aligned write of a writable byte array stores bytes in it. -/
theorem hostWrite_byteArray_of_idle {s : State} {z : Size} {addr : Nat} {r : RegionRow} (hb : s.busy = false)
    (hr : regionOf addr = some r) (hal : addr % z.bytes = 0) (hcls : r.cls = .byteArray) (hacc : r.access = .rw)
    (d : Word) :
    s.hostWrite z addr d = (s.setRegionBytes r.region (addr - r.start) d z.bytes).answer .ok none := by
  have hregion : r.region ≠ .cmd ∧ r.region ≠ .status ∧ r.region ≠ .ctrl ∧ r.region ≠ .msglen := by
    rcases region_of_writable r (regionOf_some hr).1 hcls hacc with h | h | h | h | h | h <;> rw [h] <;> decide
  simp [State.hostWrite, hr, hal, hcls, hacc, hb, hregion]

/-! ### The bytes of the regions after a write (spec/20 R61) -/

/-- The answer on the bus moves no byte of a region. -/
theorem regionByte_answer (s : State) (resp : Resp) (v : Option Word) (r : Region) (i : Nat) :
    (s.answer resp v).regionByte r i = s.regionByte r i := by
  cases r <;> rfl

section
variable {s : State} (hwf : Memory.wf s.sp = true)
include hwf

/-- The byte written to a writable byte array, inside it, reads back. -/
theorem regionByte_setRegionByte_same {r : RegionRow} (hr : r ∈ regionRows) (hcls : r.cls = .byteArray)
    (hacc : r.access = .rw) {i : Nat} (hi : i < regionLength r.region) (v : Byte) :
    (s.setRegionByte r.region i v).regionByte r.region i = v := by
  rcases region_of_writable r hr hcls hacc with h | h | h | h | h | h <;> rw [h] at hi ⊢
  · exact (Memory.read_write hwf i i v).trans (if_pos rfl)
  all_goals
    simp only [regionLength] at hi
    exact byteAt_setByte_same _ i v (by omega)

/-- Every other byte of every region keeps its value over a byte write. -/
theorem regionByte_setRegionByte_other {r q : Region} {i j : Nat} (hne : ¬ (q = r ∧ j = i)) (v : Byte) :
    (s.setRegionByte r i v).regionByte q j = s.regionByte q j := by
  by_cases hq : q = r
  · subst hq
    have hj : j ≠ i := fun h => hne ⟨rfl, h⟩
    cases q with
    | sp => exact (Memory.read_write hwf i j v).trans (if_neg hj)
    | state | nonce | key | blk | rkey => exact byteAt_setByte_other _ i j v hj
    | _ => rfl
  · -- A region is a field of its own, and the update of one field leaves the others alone.
    cases r <;> cases q <;> first | exact absurd rfl hq | rfl

variable (r : Region) (off : Nat) (d : Word)

/-- Bytes written inside a region keep SP in canonical form. -/
theorem wf_setRegionBytes_inside {n : Nat} (hfit : off + n ≤ regionLength r) :
    Memory.wf (s.setRegionBytes r off d n).sp = true := by
  refine wf_setRegionBytes hwf r off d n ?_
  rintro rfl
  rw [spSize_eq]
  exact hfit

/-- Bytes outside the written ones keep their value (spec/44 R201). -/
theorem regionByte_setRegionBytes_other {n : Nat} (hfit : off + n ≤ regionLength r) {q : Region} {j : Nat}
    (hout : ¬ (q = r ∧ off ≤ j ∧ j < off + n)) :
    (s.setRegionBytes r off d n).regionByte q j = s.regionByte q j := by
  induction n with
  | zero => rfl
  | succ n ih =>
    have hwf' := wf_setRegionBytes_inside hwf r off d (n := n) (by omega)
    calc (s.setRegionBytes r off d (n + 1)).regionByte q j
        = (s.setRegionBytes r off d n).regionByte q j :=
          regionByte_setRegionByte_other hwf' (fun ⟨hq, hj⟩ => hout ⟨hq, by omega, by omega⟩) _
      _ = s.regionByte q j := ih (by omega) fun ⟨hq, hlo, hhi⟩ => hout ⟨hq, hlo, by omega⟩

variable {row : RegionRow} (hrow : row ∈ regionRows) (hcls : row.cls = .byteArray) (hacc : row.access = .rw)
include hrow hcls hacc

/-- The written bytes of a writable byte array are those of the data, lowest first (spec/30 R87). -/
theorem regionByte_setRegionBytes_same {n k : Nat} (hfit : off + n ≤ regionLength row.region) (hk : k < n) :
    (s.setRegionBytes row.region off d n).regionByte row.region (off + k) = byteAt d k := by
  induction n with
  | zero => cases hk
  | succ n ih =>
    have hwf' := wf_setRegionBytes_inside hwf row.region off d (n := n) (by omega)
    rcases Nat.lt_succ_iff_lt_or_eq.mp hk with hlt | rfl
    · calc (s.setRegionBytes row.region off d (n + 1)).regionByte row.region (off + k)
          = (s.setRegionBytes row.region off d n).regionByte row.region (off + k) :=
            regionByte_setRegionByte_other hwf' (fun ⟨_, hj⟩ => by omega) _
        _ = byteAt d k := ih (by omega) hlt
    · exact regionByte_setRegionByte_same hwf' hrow hcls hacc (by omega) _

end

/-! ### The bytes of the regions after a command (spec/44 R206) -/

section
variable {s : State} {cmd : Instr} {r : Region} {i : Nat}

/-- The end of a completion step moves no byte of a region. -/
theorem regionByte_complete (s : State) (r : Region) (i : Nat) : s.complete.regionByte r i = s.regionByte r i := by
  cases r <;> rfl

/-- Waiting for the Keccak unit moves no byte of a region. -/
theorem regionByte_awaitKeccak (s : State) (r : Region) (i : Nat) :
    s.awaitKeccak.regionByte r i = s.regionByte r i := by
  cases r <;> rfl

/-- A byte of STATE outside the write set of a command keeps its value over the command's body. -/
theorem byteAt_state_commandBody (h : writtenByte cmd .state i = false) :
    byteAt (commandBody cmd s).state i = byteAt s.state i := by
  rcases state_not_written h with hkeeps | ⟨rfl, hout⟩
  · rw [commandBody_state s hkeeps]
  · rw [commandBody, compressBody_state, byteAt_putBlocks_outside _ _ i hout]

/-- A byte outside the write set of a command keeps its value over the command's body (spec/44 R206). -/
theorem regionByte_commandBody (h : writtenByte cmd r i = false) :
    (commandBody cmd s).regionByte r i = s.regionByte r i := by
  obtain ⟨hkey, hrkey, hnonce, -⟩ := commandBody_untouched s cmd
  cases r with
  | sp => exact congrArg (Memory.read · i) (commandBody_sp s (writtenByte_sp ▸ h))
  | state => exact byteAt_state_commandBody h
  | rk => exact congrArg (byteAt · i) (commandBody_rk s (writtenByte_rk ▸ h))
  | blk => exact congrArg (byteAt · i) (commandBody_blk s (writtenByte_blk ▸ h))
  | a => exact congrArg (byteAt · i) (commandBody_mixer s (writtenByte_a ▸ h)).1
  | b => exact congrArg (byteAt · i) (commandBody_mixer s (writtenByte_b ▸ h)).2.1
  | tweak => exact congrArg (byteAt · i) (commandBody_variant s (writtenByte_tweak ▸ h)).1
  | key => exact congrArg (byteAt · i) hkey
  | rkey => exact congrArg (byteAt · i) hrkey
  | nonce => exact congrArg (byteAt · i) hnonce
  | cmd | status | ctrl | iter | msglen | id => rfl

end

end Sys2Proof.Machine
end

section
/-! The statements of the family of spec/44, the host's accesses. -/

namespace Sys2Proof.Machine

open Sys2Proof.Claims

/-- Settles O24: the read answers a STATUS word whose last three fields are among the values they may show. -/
theorem statusReadWhileBusy : Obligations.StatusReadWhileBusy := by
  intro s cmd hrun
  obtain ⟨hbusy, -⟩ := running_cases hrun
  obtain ⟨mixReady, sel, varL, n, hstatus, hmix, hsel, hvarL⟩ := readStatus_of_running hrun
  have hread := exec_rd32_register (s := s) (r := ⟨0x200104, 4, .status, .wordOnly, .rwW1c⟩) (by decide) rfl nofun
    fun _ => byteBusy_control (by decide)
  rw [State.regValue, hstatus] at hread
  obtain ⟨vbusy, vdone, verr, vbit3, vmix⟩ := statusOf_flags s.busy s.done s.err s.ecode mixReady sel varL
  obtain ⟨vlow, vhigh⟩ := statusOf_reserved s.busy s.done s.err s.ecode mixReady sel varL
  refine ⟨_, _, hread, vbusy.trans hbusy, vdone, verr, vbit3, statusOf_ecode .., vlow, vhigh, ?_, ?_, ?_⟩
  · rw [vmix]; exact hmix
  · rw [statusOf_varL]; exact hvarL
  · rw [statusOf_sel]; exact hsel

/-- Settles O26: the bytes packed into the answer are those of the region, with 0 above. -/
theorem readReturnsRegionBytes : Obligations.ReadReturnsRegionBytes := by
  intro s z addr r hal hr hcls hfree
  have hsize : z.bytes ≤ 4 := by cases z <;> decide
  refine ⟨s.regionBytes r.region (addr.toNat - r.start) z.bytes, ?_, fun k hk => byteAt_regionBytes s _ _ hsize hk,
    fun k hk => byteAt_pack_above _ hk⟩
  rw [exec_readOf, hostRead_byteArray hr hal hcls (hitsWriteSet_eq_false hr hal hfree)]
  rfl

/-- Settles O27: the table of R206 gives the byte to the running command, so the read draws its value. -/
theorem readOfWriteSetAnswersSomeValue : Obligations.ReadOfWriteSetAnswersSomeValue := by
  intro s z addr r k hal hr hsize hk hbusy
  have hcmd : r.region ≠ .cmd := by
    intro h
    rw [h, byteBusy_control (by decide)] at hbusy
    cases hbusy
  refine ⟨z.lanes (Config.busyRead s.draws), toNat_lanes_lt z _, ?_⟩
  rw [exec_readOf, hostRead_writeSet hr hal hsize hcmd ((hitsWriteSet_iff hr hal).mpr ⟨k, hk, hbusy⟩)]
  rfl

/-- Settles O30: the write stores bytes inside its region, and those are all that changes. -/
theorem writeStoresExactlyItsBytes : Obligations.WriteStoresExactlyItsBytes := by
  intro s z addr d r hwf hb hal hr hcls hacc
  have hrow := (regionOf_some hr).1
  have hfit : addr.toNat - r.start + z.bytes ≤ regionLength r.region :=
    regionRows_bytes r hrow ▸ access_inside hr hal
  refine ⟨(s.setRegionBytes r.region (addr.toNat - r.start) d z.bytes).answer .ok none, ?exec, ?frame,
    fun k hk => ?written, fun q i hout => ?other⟩
  case exec => rw [exec_writeOf, hostWrite_byteArray_of_idle hb hr hal hcls hacc]
  case frame => exact congrArg (State.answer · .ok none) (setRegionBytes_frame s r.region _ d z.bytes)
  case written =>
    rw [regionByte_answer]
    exact regionByte_setRegionBytes_same hwf _ d hrow hcls hacc hfit hk
  case other =>
    rw [regionByte_answer]
    exact regionByte_setRegionBytes_other hwf _ _ d hfit hout

/-- Settles O58, from the frame of a command's body, region by region. -/
theorem completionWritesOnlyItsWriteSet : Obligations.CompletionWritesOnlyItsWriteSet := by
  intro s t cmd hcmd hexec
  rcases exec_command_cases hcmd hexec with ⟨-, -, rfl⟩ | ⟨-, rfl⟩
  · exact ⟨fun r i _ => regionByte_awaitKeccak s r i, fun _ => rfl⟩
  · exact ⟨fun r i h => (regionByte_complete _ r i).trans (regionByte_commandBody h),
      fun h => (commandBody_mixer s (writtenByte_iter ▸ h)).2.2⟩

/-- Settles O20: the fields of `State.statusWrite`, for each value of the two bits. -/
theorem statusWriteClearsWhatIsWrittenOne : Obligations.StatusWriteClearsWhatIsWrittenOne := by
  intro s w
  exact ⟨_, exec_wr32_status s w, rfl, ite_false_eq_and_not _ _, ite_false_eq_and_not _ _,
    fun h => congrArg ErrorCode.code (if_pos h), fun h => if_neg (ne_true_of_eq_false h)⟩

/-- Settles O21: both enables are fields of the state that irq looks at. -/
theorem ctrlWriteSetsEnablesAndIrqFollows : Obligations.CtrlWriteSetsEnablesAndIrqFollows :=
  fun s w => ⟨_, exec_wr32_ctrl s w, rfl, rfl⟩

/-- Settles O25: each register at its address in the map, outside every write set but for ITER. -/
theorem controlRegistersReadBack : Obligations.ControlRegistersReadBack := by
  intro s
  have control (start : Nat) (r : Region) (acc : RegionAccess) (hrow : ⟨start, 4, r, .wordOnly, acc⟩ ∈ regionRows)
      (hr : r ∈ [.status, .ctrl, .msglen, .id]) :
      exec (.rd32 (BitVec.ofNat 22 start)) s = .next (s.answerRead (s.regValue r).1 (s.regValue r).2) :=
    exec_rd32_register hrow rfl (by rintro rfl; revert hr; decide) fun _ => byteBusy_control (.tail _ hr)
  refine ⟨⟨s.ctrlWord, control 0x200108 .ctrl .rw (by decide) (by decide), ctrlWord_fields s⟩,
    control 0x200110 .msglen .rw (by decide) (by decide), control 0x200114 .id .ro (by decide) (by decide), ?cmd,
    fun hfree => ⟨s.iter.setWidth 32, ?iter, extractLsb'_setWidth_low _ (by decide), extractLsb'_setWidth_above _ _⟩⟩
  case cmd => rfl
  case iter =>
    have hiter : ∀ k, byteBusy s .iter k = false := fun k => by
      simpa only [byteBusy, writtenByte_iter] using hfree
    exact exec_rd32_register (r := ⟨0x20010C, 4, .iter, .wordOnly, .ro⟩) (by decide) rfl nofun hiter

/-- Settles O31: MSGLEN is writable and no flag but BUSY stands in the way. -/
theorem msglenWriteStoresTheWord : Obligations.MsglenWriteStoresTheWord :=
  fun _ d hb => exec_wr32_msglen_of_idle hb d

end Sys2Proof.Machine
end

section
/-! SUPPORT. The rules of the exceptions (spec/60): what each bus check answers, what each check at issue records, when
the step goes on, and what a Keccak hang leaves alone. -/

namespace Sys2Proof.Machine

open Sys2Proof.Claims

variable {s t : State} {i : Instr}

/-! ### Errors recorded and answered (spec/60 R232, R233) -/

/-- An error on the bus is recorded, and the answer is ERR, with RDATA = 0 for a read. -/
theorem raiseBus_eq_replied (s : State) (e : ErrorCode) (isRead : Bool) :
    s.raiseBus e isRead = replied (withError s e) .err (if isRead then some 0 else none) := rfl

/-- What a bus transaction answers: it raises a bus error, or the answer is OK. -/
theorem exec_transaction_answer (hi : i.isCommand = false) (h : exec i s = .next t) :
    (∃ e isRead, e ≠ .none ∧ t = s.raiseBus e isRead) ∨ ∃ d, t.reply = some ⟨.ok, d⟩ := by
  rcases exec_transaction_cases hi h with ⟨z, addr, rfl⟩ | ⟨z, addr, d, rfl⟩
  · rcases hostRead_cases s z addr with ⟨e, he, hs⟩ | ⟨v, n, hs⟩ <;> rw [hs]
    · exact .inl ⟨e, true, by rcases he with rfl | rfl <;> decide, rfl⟩
    · exact .inr ⟨some v, rfl⟩
  · rcases hostWrite_cases s z addr d with ⟨e, he, hs⟩ | hs | hs | hs | ⟨-, hs⟩ | ⟨-, r, -, -, -, hs⟩ <;> rw [hs]
    · exact .inl ⟨e, false, he, rfl⟩
    all_goals exact .inr ⟨none, rfl⟩

/-! ### The checks of a bus transaction, in order (spec/60 R234) -/

section
variable {z : Size} {addr : Nat} {r : RegionRow} {d : Word}

theorem hostRead_misaligned (hal : addr % z.bytes ≠ 0) : s.hostRead z addr = s.raiseBus .busAccess true :=
  if_pos hal

theorem hostRead_unmapped (hal : addr % z.bytes = 0) (hr : regionOf addr = none) :
    s.hostRead z addr = s.raiseBus .busUnmapped true := by
  simp [State.hostRead, hal, hr]

theorem hostRead_wrongSize (hal : addr % z.bytes = 0) (hr : regionOf addr = some r) (hcls : r.cls = .wordOnly)
    (hz : z ≠ .four) : s.hostRead z addr = s.raiseBus .busAccess true := by
  simp [State.hostRead, hal, hr, hcls, hz]

theorem hostWrite_misaligned (hal : addr % z.bytes ≠ 0) : s.hostWrite z addr d = s.raiseBus .busAccess false :=
  if_pos hal

theorem hostWrite_unmapped (hal : addr % z.bytes = 0) (hr : regionOf addr = none) :
    s.hostWrite z addr d = s.raiseBus .busUnmapped false := by
  simp [State.hostWrite, hal, hr]

theorem hostWrite_wrongSize (hal : addr % z.bytes = 0) (hr : regionOf addr = some r) (hcls : r.cls = .wordOnly)
    (hz : z ≠ .four) : s.hostWrite z addr d = s.raiseBus .busAccess false := by
  simp [State.hostWrite, hal, hr, hcls, hz]

/-- A byte array takes every size and a word-only region takes 4 bytes (spec/20 R59). -/
theorem not_wrongSize (hsize : r.cls = .byteArray ∨ z = .four) : ¬ (r.cls = .wordOnly ∧ z ≠ .four) := by
  rintro ⟨hcls, hz⟩
  rcases hsize with h | h
  · rw [hcls] at h; cases h
  · exact hz h

theorem hostWrite_readonly (hal : addr % z.bytes = 0) (hr : regionOf addr = some r)
    (hsize : r.cls = .byteArray ∨ z = .four) (hacc : r.access = .ro) :
    s.hostWrite z addr d = s.raiseBus .busReadonly false := by
  simp only [State.hostWrite, hal, hr, not_wrongSize hsize, hacc, ne_eq, not_true_eq_false, if_false, if_true]

/-- CMD and STATUS have an access of their own (spec/20 R61). -/
theorem region_of_rw : ∀ r ∈ regionRows, r.access = .rw → r.region ≠ .cmd ∧ r.region ≠ .status := by decide

/-- While a command runs, of the regions with access rw only CTRL is written (spec/44 R207). -/
theorem hostWrite_busy (hal : addr % z.bytes = 0) (hr : regionOf addr = some r)
    (hsize : r.cls = .byteArray ∨ z = .four) (hacc : r.access = .rw) (hctrl : r.region ≠ .ctrl)
    (hb : s.busy = true) : s.hostWrite z addr d = s.raiseBus .busBusy false := by
  obtain ⟨hcmd, hstatus⟩ := region_of_rw r (regionOf_some hr).1 hacc
  have hro : r.access ≠ .ro := by rw [hacc]; decide
  simp only [State.hostWrite, hal, hr, not_wrongSize hsize, hro, hcmd, hstatus, hctrl, hb, ne_eq, not_true_eq_false,
    if_false, if_true]

end

/-! ### The checks at issue, in order (spec/44 R205, spec/60 R235) -/

section
variable {w : Word}

theorem exec_wr32_cmd (s : State) (w : Word) :
    exec (.wr32 0x200100 w) s = .next ((s.issueCommand w).answer .ok none) := rfl

/-- A word that fails a check records its error, and the write of CMD answers OK. -/
theorem exec_wr32_cmd_of_error {e : ErrorCode} (h : issueError s w = some e) :
    exec (.wr32 0x200100 w) s = .next (replied (withError s e) .ok none) := by
  rw [exec_wr32_cmd, State.issueCommand, h]
  rfl

/-- A word that passes every check is accepted. -/
theorem exec_wr32_cmd_of_pass (h : issueError s w = none) :
    exec (.wr32 0x200100 w) s = .next (replied { s with pend := some w, busy := true, done := false } .ok none) := by
  rw [exec_wr32_cmd, State.issueCommand, h]
  rfl

theorem issueError_of_busy (hb : s.busy = true) : issueError s w = some .cmdBusy := if_pos hb

theorem issueError_of_illegal (hb : s.busy = false) {e : DecodeError} (hd : decodeCommand w = .error e) :
    issueError s w = some .cmdIllegal := by
  simp [issueError, hb, hd]

/-- ITER stands at its bound where its value is 2^19 (spec/10 R32). -/
theorem iter_eq_mixIterations_iff (n : BitVec 20) : n = BitVec.ofNat 20 mixIterations ↔ n.toNat = 2 ^ 19 := by
  rw [← BitVec.toNat_inj, BitVec.toNat_ofNat, mixIterations_eq_two_pow,
    Nat.mod_eq_of_lt (by decide : 2 ^ 19 < 2 ^ 20)]

theorem issueError_mixStep (hb : s.busy = false) (hd : decodeCommand w = .ok .mixStep) :
    issueError s w = if s.mixReady = false ∨ s.iter.toNat = 2 ^ 19 then some .cmdSeq else none := by
  simp [issueError, hb, hd, iter_eq_mixIterations_iff]

theorem issueError_mixRun (hb : s.busy = false) (hd : decodeCommand w = .ok .mixRun) :
    issueError s w = if s.mixReady = false then some .cmdSeq else none := by
  simp [issueError, hb, hd]

/-- MIX_INIT and HASH have one check, on the message length for variant 1. -/
theorem issueError_variant {v : BitVec 8} (hb : s.busy = false)
    (hd : decodeCommand w = .ok (.mixInit v) ∨ decodeCommand w = .ok (.hash v)) :
    issueError s w = if v = 1 ∧ s.msglen.toNat < 43 then some .cmdPrecond else none := by
  rcases hd with hd | hd <;> simp [issueError, hb, hd]

/-- A legal word that meets the conditions of its command passes. -/
theorem issueError_eq_none (hb : s.busy = false) (hd : decodeCommand w = .ok i)
    (hstep : i = .mixStep → s.mixReady = true ∧ s.iter.toNat ≠ 2 ^ 19) (hrun : i = .mixRun → s.mixReady = true)
    (hvariant : i = .mixInit 1 ∨ i = .hash 1 → 43 ≤ s.msglen.toNat) : issueError s w = none := by
  cases i with
  | mixStep =>
    obtain ⟨hready, hiter⟩ := hstep rfl
    rw [issueError_mixStep hb hd, if_neg]
    rintro (hnot | hbound)
    · exact absurd (hready.symm.trans hnot) nofun
    · exact hiter hbound
  | mixRun => rw [issueError_mixRun hb hd, if_neg (by simp [hrun rfl])]
  | mixInit v =>
    rw [issueError_variant hb (.inl hd), if_neg]
    rintro ⟨rfl, hlen⟩
    exact Nat.not_le_of_lt hlen (hvariant (.inl rfl))
  | hash v =>
    rw [issueError_variant hb (.inr hd), if_neg]
    rintro ⟨rfl, hlen⟩
    exact Nat.not_le_of_lt hlen (hvariant (.inr rfl))
  | nop | keyexp | enc10 | enc1 | spInit | compress | kperm | rd8 | rd16 | rd32 | wr8 | wr16 | wr32 =>
    simp [issueError, hb, hd]

end

/-! ### The step (spec/10 R20, spec/60 R230, R247) -/

theorem step_of_host {x : Txn} {rest : List Event} (h : s.inputs = .host x :: rest) :
    step s = perform (fetchHost x { s with inputs := rest }) := by
  simp only [step, fetch, h]

theorem step_of_core {rest : List Event} (h : s.inputs = .core :: rest) :
    step s = perform (fetchCore { s with inputs := rest }) := by
  simp only [step, fetch, h]

theorem step_of_noInput (h : s.inputs = []) : step s = perform (fetchCore s) := by
  simp only [step, fetch, h]

theorem perform_fetchCore_of_idle (hb : s.busy = false) : perform (fetchCore s) = .next s := by
  simp [fetchCore, hb, perform]

/-- The core's turn stops only on a pending word that is no command. -/
theorem perform_fetchCore_next (h : s.busy = true → ∃ i, s.running = some i) :
    ∃ t, perform (fetchCore s) = .next t := by
  rcases fetchCore_cases s with ⟨hb, -, hf⟩ | ⟨i, -, -, hf⟩ | ⟨hb, hnone, -⟩
  · exact ⟨s, perform_fetchCore_of_idle hb⟩
  · rw [hf]; exact exec_next i s
  · obtain ⟨i, hi⟩ := h hb
    rw [hnone] at hi
    cases hi

/-- A transaction of no type raises BUS_ACCESS, before any other check (spec/60 R234). -/
theorem perform_fetchHost_of_error {x : Txn} {e : DecodeError} (h : decodeTxn x = .error e) {isRead : Bool}
    (hdir : x.tc.getLsbD 2 = !isRead) (s : State) :
    perform (fetchHost x s) = .next (s.raiseBus .busAccess isRead) := by
  simp only [fetchHost, h, perform, hdir, Bool.not_not]

/-- No error of a transaction stops the block. -/
theorem perform_fetchHost_next (x : Txn) (s : State) : ∃ t, perform (fetchHost x s) = .next t := by
  cases hd : decodeTxn x with
  | ok i => simpa only [fetchHost, hd, perform] using exec_next i s
  | error e => exact ⟨_, perform_fetchHost_of_error hd (Bool.not_not _).symm s⟩

/-- Where BUSY = 1 means that a command runs, the step goes on, whatever the next event is. -/
theorem goesOn_of_running (h : s.busy = true → ∃ i, s.running = some i) : s.GoesOn := by
  unfold State.GoesOn
  cases hin : s.inputs with
  | nil => rw [step_of_noInput hin]; exact perform_fetchCore_next h
  | cons event rest =>
    cases event with
    | host x => rw [step_of_host hin]; exact perform_fetchHost_next x _
    | core => rw [step_of_core hin]; exact perform_fetchCore_next (s := { s with inputs := rest }) h
    | rst => exact ⟨{ s with inputs := rest }.resetStep, by simp only [step, fetch, hin, perform]⟩

/-- In a state of the invariant BUSY = 1 means that a command runs: the pending word passed the checks of its issue. -/
theorem State.Inv.exists_running (h : s.Inv) (hb : s.busy = true) : ∃ i, s.running = some i := by
  obtain ⟨w, hp⟩ := Option.isSome_iff_exists.mp (h.busyPend.symm.trans hb)
  cases hd : decodeCommand w with
  | ok i => exact ⟨i, by simp [State.running, hb, hp, hd, Except.toOption]⟩
  | error e =>
    have hpass := h.pendIssued w hp
    rw [issueError_of_illegal rfl hd] at hpass
    cases hpass

/-! ### The Keccak hang (spec/60 R248, log 5) -/

/-- While a KPERM or HASH waits for its answer, a step other than reset moves flags, the answer on the bus and the
model's own fields only: the core's turn waits, and the host cannot disturb the command. -/
theorem step_hang_frame (hr : s.running = some i) (hu : usesKeccak i = true) (ha : s.keccakAnswers = false)
    (hrst : ∀ rest, s.inputs ≠ .rst :: rest) (h : step s = .next t) :
    t = { s with done := t.done, err := t.err, ecode := t.ecode, ieDone := t.ieDone, ieErr := t.ieErr, kReq := t.kReq,
                 reply := t.reply, draws := t.draws, inputs := t.inputs } := by
  obtain ⟨hb, w, -, hd⟩ := running_cases hr
  rcases step_cases h with
    ⟨rest, -, ⟨hidle, -⟩ | ⟨j, hj, he⟩⟩ | ⟨x, rest, -, ⟨j, hx, he⟩ | ⟨e, -, rfl⟩⟩ | ⟨rest, hin, -⟩
  · rw [hb] at hidle; cases hidle
  · obtain rfl : i = j := Option.some.inj (hr.symm.trans hj)
    rcases exec_command_cases (isCommand_of_decodeCommand hd) he with ⟨-, -, rfl⟩ | ⟨hanswers, -⟩
    · rfl
    · exact absurd (ha.symm.trans (hanswers hu)) nofun
  · obtain ⟨u, hexec, hframe⟩ :=
      busyHostCannotDisturbCommand { s with inputs := rest } j (isCommand_of_decodeTxn hx) hb
    obtain rfl : u = t := Host.Outcome.next.inj (hexec.symm.trans he)
    rw [hframe]
  · rfl
  · exact absurd hin (hrst rest)

end Sys2Proof.Machine
end

section
/-! The statements of the family of spec/60, the exceptions. -/

namespace Sys2Proof.Machine

open Sys2Proof.Claims

/-- Settles O14: the pending word of a state of the invariant is a command, so the core's turn does not stop. -/
theorem invariantStateGoesOn : Obligations.InvariantStateGoesOn :=
  fun _ h => goesOn_of_running h.exists_running

/-- Settles O16, check by check. -/
theorem readErrorsInPriorityOrder : Obligations.ReadErrorsInPriorityOrder := by
  intro s z addr
  rw [exec_readOf]
  refine ⟨fun hal => ?_, fun hal hr => ?_, fun hal r hr hcls hz => ?_⟩
  · rw [hostRead_misaligned hal]; rfl
  · rw [hostRead_unmapped hal hr]; rfl
  · rw [hostRead_wrongSize hal hr hcls hz]; rfl

/-- Settles O17, check by check. -/
theorem writeErrorsInPriorityOrder : Obligations.WriteErrorsInPriorityOrder := by
  intro s z addr d
  rw [exec_writeOf]
  refine ⟨fun hal => ?_, fun hal hr => ?_, fun hal r hr => ⟨fun hcls hz => ?_, fun hsize hacc => ?_,
    fun hsize hacc hctrl hb => ?_⟩⟩
  · rw [hostWrite_misaligned hal]; rfl
  · rw [hostWrite_unmapped hal hr]; rfl
  · rw [hostWrite_wrongSize hal hr hcls hz]; rfl
  · rw [hostWrite_readonly hal hr hsize hacc]; rfl
  · rw [hostWrite_busy hal hr hsize hacc hctrl hb]; rfl

/-- Settles O18: the answer ERR comes from raising a bus error alone, and that fixes RDATA. -/
theorem errAnswerHasNoOtherEffect : Obligations.ErrAnswerHasNoOtherEffect := by
  intro s t i d hi h hreply
  rcases exec_transaction_answer hi h with ⟨e, isRead, he, rfl⟩ | ⟨d', hok⟩
  · cases hreply
    exact ⟨e, he, raiseBus_eq_replied s e isRead⟩
  · cases hok.symm.trans hreply

/-- Settles O19: the outcome of the issue checks, in their order, decides what the write of CMD does. -/
theorem commandIssueChecksInOrder : Obligations.CommandIssueChecksInOrder := by
  intro s w
  refine ⟨fun hb => exec_wr32_cmd_of_error (issueError_of_busy hb),
    fun hb e hd => exec_wr32_cmd_of_error (issueError_of_illegal hb hd), fun hb i hd => ⟨?seq, ?precond,
    fun hstep hrun hvariant => exec_wr32_cmd_of_pass (issueError_eq_none hb hd hstep hrun hvariant)⟩⟩
  case seq =>
    rintro (⟨rfl, hfail⟩ | ⟨rfl, hfail⟩)
    · exact exec_wr32_cmd_of_error ((issueError_mixStep hb hd).trans (if_pos hfail))
    · exact exec_wr32_cmd_of_error ((issueError_mixRun hb hd).trans (if_pos hfail))
  case precond =>
    rintro ⟨hi, hlen⟩
    have hvariant : decodeCommand w = .ok (.mixInit 1) ∨ decodeCommand w = .ok (.hash 1) :=
      hi.imp (fun h : i = .mixInit 1 => h ▸ hd) fun h : i = .hash 1 => h ▸ hd
    exact exec_wr32_cmd_of_error ((issueError_variant hb hvariant).trans (if_pos ⟨rfl, hlen⟩))

/-- Settles O56: the step goes on, and its frame holds every field the statement names. -/
theorem keccakHangLastsUntilReset : Obligations.KeccakHangLastsUntilReset := by
  intro s cmd hr hu ha hrst
  obtain ⟨hb, -⟩ := running_cases hr
  obtain ⟨t, ht⟩ := goesOn_of_running fun _ => ⟨cmd, hr⟩
  refine ⟨t, ht, ?_⟩
  rw [step_hang_frame hr hu ha hrst ht]
  exact ⟨hr, ha, hb, rfl, rfl, rfl, rfl, rfl, rfl, rfl, rfl, rfl, rfl, rfl, rfl, rfl, rfl, rfl⟩

/-- Settles O8: the two reserved codes decode to nothing, and the step raises BUS_ACCESS in their place. -/
theorem reservedSizeRaisesBusAccess : Obligations.ReservedSizeRaisesBusAccess := by
  rintro s ⟨tc, addr, d⟩ rest hin
  obtain ⟨-, -, -, -, -, -, hread, hwrite⟩ := transactionCodesSelectTransactions addr d
  rw [step_of_host hin]
  constructor
  · rintro rfl
    exact perform_fetchHost_of_error hread (isRead := true) (by decide : (0b011 : BitVec 3).getLsbD 2 = _) _
  · rintro rfl
    exact perform_fetchHost_of_error hwrite (isRead := false) (by decide : (0b111 : BitVec 3).getLsbD 2 = _) _

/-- Settles O9: the core's turn, taken by an event or for lack of one, leaves an idle block as it is. -/
theorem idleCoreChangesNothing : Obligations.IdleCoreChangesNothing := by
  intro s hb
  refine ⟨fun hin => ?_, fun rest hin => ?_⟩
  · rw [step_of_noInput hin, perform_fetchCore_of_idle hb]
  · rw [step_of_core hin]
    exact perform_fetchCore_of_idle (s := { s with inputs := rest }) hb

end Sys2Proof.Machine
end

section
/-! SUPPORT. The rules of reset and of reuse (spec/70): the step by which the reset input acts, the core's turn on a
running command, and the registers that decide what a HASH leaves. -/

namespace Sys2Proof.Machine

open Sys2Proof.Claims

variable {s t : State}

/-! ### The reset step and the core's turn (spec/10 R20, spec/70 R260, R273, log 8) -/

theorem step_of_rst {rest : List Event} (h : s.inputs = .rst :: rest) :
    step s = .next { s with inputs := rest }.resetStep := by
  simp only [step, fetch, h, perform]

/-- The core takes its turn by an event or for lack of one. -/
theorem step_of_coreTurn {rest : List Event} (h : s.inputs = .core :: rest ∨ (s.inputs = [] ∧ rest = [])) :
    step s = perform (fetchCore { s with inputs := rest }) := by
  rcases h with hcore | ⟨hnone, rfl⟩
  · exact step_of_core hcore
  · rw [step_of_noInput hnone, ← hnone]

theorem perform_fetchCore_of_running {i : Instr} (h : s.running = some i) : perform (fetchCore s) = exec i s := by
  obtain ⟨hb, w, hp, hd⟩ := running_cases h
  simp only [fetchCore, hb, hp, hd, if_true, perform]

/-- The core's turn is the completion step of the running command. -/
theorem step_of_running {i : Instr} {rest : List Event} (hr : s.running = some i)
    (h : s.inputs = .core :: rest ∨ (s.inputs = [] ∧ rest = [])) : step s = exec i { s with inputs := rest } := by
  rw [step_of_coreTurn h]
  exact perform_fetchCore_of_running (s := { s with inputs := rest }) hr

/-- The completion step of a command leaves the inputs to come as they are. -/
theorem exec_command_inputs {i : Instr} (hi : i.isCommand = true) (h : exec i s = .next t) : t.inputs = s.inputs := by
  rcases exec_command_cases hi h with ⟨-, -, rfl⟩ | ⟨-, rfl⟩
  · rfl
  · obtain ⟨-, -, -, -, -, -, -, -, -, -, -, hinputs⟩ := commandBody_untouched s i
    rw [State.complete_inputs, hinputs]

/-! ### What decides the outcome of HASH (spec/43 R184, spec/70 R271) -/

/-- Two states agree on the registers that HASH writes with data and on VAR_L, which its mixer reads. The stages of HASH
after MIX_INIT read nothing else, so each of them keeps the agreement. -/
structure State.AgreesOnHashData (s t : State) : Prop where
  state : s.state = t.state
  sp : s.sp = t.sp
  rk : s.rk = t.rk
  a : s.a = t.a
  b : s.b = t.b
  tweak : s.tweak = t.tweak
  varL : s.varL = t.varL
  iter : s.iter = t.iter

theorem tweakOf_congr {v : BitVec 8} {nonce nonce' : Lane} (st : BitVec 1600) (h : v = 1 → nonce = nonce') :
    tweakOf v st nonce = tweakOf v st nonce' := by
  by_cases hv : v = 1
  · rw [h hv]
  · simp only [tweakOf, effVariant1_of_ne hv, Bool.false_eq_true, if_false]

/-- SP_INIT and MIX_INIT load every such register from STATE, the variant and, for variant 1, NONCE. -/
theorem agreesOnHashData_of_init {v : BitVec 8} (hs : Memory.wf s.sp = true) (ht : Memory.wf t.sp = true)
    (hstate : s.state = t.state) (hnonce : v = 1 → s.nonce = t.nonce) :
    (mixInitBody v (spInitBody s)).AgreesOnHashData (mixInitBody v (spInitBody t)) := by
  have hrk : (spInitBody s).rk = (spInitBody t).rk := spInitBody_rk_congr fun _ _ => by rw [hstate]
  have hsp : (spInitBody s).sp = (spInitBody t).sp := spInitBody_sp_congr hs ht hrk fun _ _ _ => by rw [hstate]
  constructor
  case state => rw [mixInitBody_state, mixInitBody_state, spInitBody_state, spInitBody_state, hstate]
  case sp => rw [mixInitBody_sp, mixInitBody_sp, hsp]
  case rk => rw [mixInitBody_rk, mixInitBody_rk, hrk]
  case a => rw [mixInitBody_a, mixInitBody_a, spInitBody_state, spInitBody_state, hstate]
  case b => rw [mixInitBody_b, mixInitBody_b, spInitBody_state, spInitBody_state, hstate]
  case tweak =>
    rw [mixInitBody_tweak, mixInitBody_tweak, spInitBody_state, spInitBody_state, spInitBody_nonce, spInitBody_nonce,
      hstate, tweakOf_congr t.state hnonce]
  case varL => rw [mixInitBody_varL, mixInitBody_varL]
  case iter => rw [mixInitBody_iter, mixInitBody_iter]

namespace State.AgreesOnHashData

theorem mixIteration (h : s.AgreesOnHashData t) (e : Bool) :
    (mixIteration e s).AgreesOnHashData (mixIteration e t) := by
  constructor <;>
    simp only [Machine.mixIteration, h.state, h.sp, h.rk, h.a, h.b, h.tweak, h.varL, h.iter]

/-- ITER agrees, so both loops end at the same iteration. -/
theorem mixLoop (fuel : Nat) (h : s.AgreesOnHashData t) : (mixLoop fuel s).AgreesOnHashData (mixLoop fuel t) := by
  induction fuel generalizing s t with
  | zero => exact h
  | succ fuel ih =>
    rw [Machine.mixLoop, Machine.mixLoop, h.iter, h.varL]
    split
    · exact ih (h.mixIteration _)
    · exact h

theorem mixRunBody (h : s.AgreesOnHashData t) : (mixRunBody s).AgreesOnHashData (mixRunBody t) := h.mixLoop _

theorem compressBody (h : s.AgreesOnHashData t) : (compressBody s).AgreesOnHashData (compressBody t) where
  state := by rw [compressBody_state, compressBody_state, h.state, h.sp]
  sp := by rw [compressBody_sp, compressBody_sp, h.state, h.sp]
  rk := by rw [compressBody_rk, compressBody_rk, h.state]
  a := by rw [compressBody_a, compressBody_a, h.a]
  b := by rw [compressBody_b, compressBody_b, h.b]
  tweak := by rw [compressBody_tweak, compressBody_tweak, h.tweak]
  varL := by rw [compressBody_varL, compressBody_varL, h.varL]
  iter := by rw [compressBody_iter, compressBody_iter, h.iter]

theorem kpermBody (h : s.AgreesOnHashData t) : (kpermBody s).AgreesOnHashData (kpermBody t) :=
  { h with state := congrArg Config.keccakF h.state }

theorem complete (h : s.AgreesOnHashData t) : s.complete.AgreesOnHashData t.complete := { h with }

theorem sel (h : s.AgreesOnHashData t) : s.sel = t.sel := congrArg selOf h.state

end State.AgreesOnHashData

/-- HASH forgets all earlier work: its initial stages make the states agree, and the later ones keep that. -/
theorem agreesOnHashData_hashBody {v : BitVec 8} (hs : Memory.wf s.sp = true) (ht : Memory.wf t.sp = true)
    (hstate : s.state = t.state) (hnonce : v = 1 → s.nonce = t.nonce) :
    (hashBody v s).AgreesOnHashData (hashBody v t) := by
  rw [hashBody, hashStages, hashBody, hashStages]
  exact (agreesOnHashData_of_init hs ht hstate hnonce).mixRunBody.compressBody.kpermBody

end Sys2Proof.Machine
end

section
/-! The statements of the family of spec/70, reset and hazards. -/

namespace Sys2Proof.Machine

open Sys2Proof.Claims

/-- Settles O11: the reset step writes the control state over, and its SP is canonical by construction. -/
theorem resetInputRestoresControlState : Obligations.ResetInputRestoresControlState := fun _ _ hin =>
  ⟨_, step_of_rst hin, rfl, rfl, rfl, rfl, rfl, rfl, rfl, rfl, rfl, rfl, rfl, rfl, rfl, rfl, rfl,
    (inv_resetStep _).spWf⟩

/-- Settles O52: the two bodies of HASH agree on every register that HASH writes with data. -/
theorem hashResultIgnoresEarlierWork : Obligations.HashResultIgnoresEarlierWork := by
  intro s₁ s₂ v hwf₁ hwf₂ hk₁ hk₂ hstate hnonce
  have h := (agreesOnHashData_hashBody hwf₁ hwf₂ hstate hnonce).complete
  exact ⟨_, _, exec_hash_of_answers v hk₁, exec_hash_of_answers v hk₂, h.state, h.sel, h.sp, h.rk, h.a, h.b, h.tweak,
    h.iter⟩

/-- Settles O55: the turn is the command's completion step, which waits for the Keccak unit or ends. -/
theorem runningCommandCompletes : Obligations.RunningCommandCompletes := by
  intro s cmd rest hr hturn
  obtain ⟨hb, w, -, hd⟩ := running_cases hr
  have hcmd := isCommand_of_decodeCommand hd
  obtain ⟨t, ht⟩ := exec_next cmd { s with inputs := rest }
  refine ⟨t, (step_of_running hr hturn).trans ht, exec_command_inputs hcmd ht, ?_⟩
  rcases exec_command_cases hcmd ht with ⟨huses, hwaits, rfl⟩ | ⟨hanswers, rfl⟩
  case inl =>
    refine ⟨?_, fun _ _ => ⟨hb, rfl, rfl⟩⟩
    rintro (hno | hyes)
    · exact absurd (huses.symm.trans hno) nofun
    · exact absurd (hwaits.symm.trans hyes) nofun
  case inr => exact ⟨fun _ => ⟨rfl, rfl, rfl⟩, fun huses hwaits => absurd (hwaits.symm.trans (hanswers huses)) nofun⟩

end Sys2Proof.Machine
end
